-- ==== Sys2Proof/Word.lean ====
section
/-! DEFINITION. The word types of the block: a byte of a frame or a buffer (20_memory.md R39, R41) and a
32-bit register (10_state.md R6). -/

namespace Sys2Proof

/-- One byte: a header field on the wire, a payload byte, a `TXBUF` or `RXBUF` cell, an 8-bit register. -/
abbrev Byte := BitVec 8

/-- One register as the read port shows it (R6: "Every register is 32 bits wide on the register read port"). -/
abbrev Word := BitVec 32

end Sys2Proof
end

