-- ==== Sys2Proof/Config.lean ====
section
/-! DEFINITION. What an implementation fixes (00_scope.md section 4) and the free values (opaque, no body):
nothing in Lean can evaluate an opaque constant, so a claim holds for every value it may have. -/

namespace Sys2Proof.Config

/-- `CHUNK` (R2): the most payload bytes a frame carries. -/
abbrev chunkSize : Nat := 64

/-- `HDR` (R2): the bytes of a frame's header. -/
abbrev headerSize : Nat := 7

/-- `MAX_FRAME` (R2): the bytes of the longest frame, and of the event port's `ev_data` (R53). -/
abbrev maxFrame : Nat := 71

/-- `SEQ_MOD` (R2): the size of the sequence space. -/
abbrev seqMod : Nat := 256

/-- The least `MAX_LEN` an implementation may have (R1). -/
abbrev minMaxLen : Nat := 19200

/-- How far the implementation's `MAX_LEN` stands above its least value. `MAX_LEN` is OPEN (R1, D16): any value
from 19200 to 2^24, so the offset is any number from 0 to 2^24 - 19200. Free value, log entry 1. -/
opaque maxLenOffset : Fin 16758017

/-- `MAX_LEN`, the size in bytes of `TXBUF` and of `RXBUF` (R1, R30). DESIGN CHOICE: one constant for every instance, so the
two instances of a connection have the same `MAX_LEN`, where the spec does not say that peers agree (R1, R47; log
entry 1). -/
def maxLen : Nat := maxLenOffset.val + minMaxLen

/-- `TICK_PERIOD` (R1, D4): the platform's time between two TICK events. No rule of the model reads it ("No rule
depends on wall time"). Free value, log entry 1. -/
opaque tickPeriod : Nat

/-- What the host reads from a `TXBUF` byte that nothing has written since power-on (R36: "The hardware returns
whatever the storage holds"), by index: the same byte each time (R43). DESIGN CHOICE: one constant for every instance, so
two composed instances read equal bytes here, where the spec does not say that their storages agree (R47). Free value,
log entry 5. -/
opaque freeTxByte : Nat → Byte

/-- What the host reads from an `RXBUF` byte that holds no defined value (R36: "a draw under no law"; I7), by the
number of the draw. DESIGN CHOICE: one constant for every instance, so the draws of two composed instances agree number
by number, where the spec gives them no relation (R36, R47). Free value, log entry 6. -/
opaque freeRxByte : Nat → Byte

end Sys2Proof.Config
end

