-- ==== Sys2Proof/Machine/Types.lean ====
section
/-! DEFINITION. The plain data of the block's state and ports: control states and causes, the event port's
fields, the frame value, the outputs, the host's requests, and what selects an opcode-table row. -/

namespace Sys2Proof

/-- The control states of R8 (`STATUS[2:0]`). Codes 5 and 6 are "never held; no rule writes them", so they have no
constructor. -/
inductive ControlState where
  | idle      -- 0: no connection, after reset
  | txWait    -- 1: sender waiting for an ACK frame or a timeout
  | txDone    -- 2: sender finished
  | rxWait    -- 3: receiver waiting for a frame
  | rxDone    -- 4: receiver finished
  | error     -- 7: a fault was taken
  deriving DecidableEq, Repr

/-- The fault causes of R112 (`STATUS[7:4]`). Codes 5 to 15 are "never written", so they have no constructor. -/
inductive Cause where
  | none          -- 0
  | invalidMode   -- 1
  | illegalOp     -- 2
  | peerClosed    -- 3
  | rxOverflow    -- 4
  deriving DecidableEq, Repr

/-- The seven header bytes of a frame in wire order (R49). -/
structure Header where
  sp   : Byte   -- sourcePort
  dp   : Byte   -- destPort
  seq  : Byte
  ack  : Byte
  doff : Byte   -- dataOffset
  win  : Byte   -- windowSize
  rtx  : Byte   -- retransmitFlag
  deriving DecidableEq, Repr

/-- The frame value of R63. The header fields are integers: the sender and the receiver compute them without
reduction (a data frame's `seq` is its index, an ACK frame's `ack` may be -1). -/
structure Frame where
  sp      : Int
  dp      : Int
  seq     : Int
  ack     : Int
  doff    : Int
  win     : Int
  rtx     : Int
  payload : List Byte
  deriving DecidableEq, Repr

/-- The verdict of `unpack` (R66). -/
inductive Unpacked where
  | noFrame
  | malformed
  | frame (f : Frame)
  deriving DecidableEq, Repr

/-- One event on the event port (R53). `data` is the 71 bytes `ev_data[0]` to `ev_data[70]`, byte 0 first; a shorter
list stands for the same bytes with zeros after them, and bytes past the 71st do not exist (log entry 2). -/
structure Event where
  code : BitVec 4
  reg  : BitVec 8
  val  : Word
  len  : BitVec 7
  data : List Byte
  deriving DecidableEq, Repr

/-- The result codes of PACK and UNPACK (R60). -/
inductive ResultCode where
  | frame       -- 0
  | noFrame     -- 1
  | malformed   -- 2
  | badLen      -- 3
  deriving DecidableEq, Repr

/-- The output events of R59. -/
inductive Output where
  | send (bytes : List Byte)                       -- out_kind 0: transmit one frame
  | close                                          -- out_kind 1: close the transport handle
  | result (code : ResultCode) (bytes : List Byte) -- out_kind 2: a codec verdict
  deriving DecidableEq, Repr

/-- The fields of the output port while it shows one output (R59). -/
structure OutputFields where
  kind : BitVec 2
  code : BitVec 2
  len  : BitVec 7
  data : List Byte
  deriving DecidableEq, Repr

/-- What the outside may ask of the block in one operation-level step: an event on the event port (R53), a byte
write to `TXBUF` (R33), a read on one of the three read ports (R22, R30, R35), or a reset (R127). -/
inductive Input where
  | event   (e : Event)
  | writeTx (index : Nat) (value : Byte)
  | readReg (index : BitVec 8)
  | readTx  (index : Nat)
  | readRx  (index : Nat)
  | rst
  deriving DecidableEq, Repr

/-- What a read port answered in the last step. -/
inductive Reply where
  | word (v : Word)
  | byte (v : Byte)
  deriving DecidableEq, Repr

/-- What selects, beside `ev_code`, the opcode-table row an event runs (R57): `STATE`, `CFG_ROLE.ROLE`, and whether
START's checks of R107 pass for that role (the "condition" of the rows TX.START and RX.START). -/
structure Selector where
  state   : ControlState
  role    : BitVec 2
  startOk : Bool
  deriving DecidableEq, Repr

end Sys2Proof
end

