-- ==== Sys2Proof/Machine/Operands.lean ====
section
/-! DEFINITION. The operand forms of R55 and R56 (EV-C, EV-F, EV-P), read from the event port's fields. -/

namespace Sys2Proof

/-- The first `n` bytes of a port whose later bytes are zero. -/
def takePad : Nat → List Byte → List Byte
  | 0, _ => []
  | n + 1, [] => 0 :: takePad n []
  | n + 1, b :: l => b :: takePad n l

/-- `raw = ev_data[0..ev_len)` when `ev_len <= 71`, "and the length alone otherwise" (R56). -/
def frameOperand (e : Event) : List Byte :=
  if e.len.toNat ≤ Config.maxFrame then takePad e.len.toNat e.data else []

/-- PACK's header operand: `ev_data[0]` to `ev_data[6]` in the field order of R49 (R56). -/
def headerOperand (e : Event) : Header where
  sp   := e.data.getD 0 0
  dp   := e.data.getD 1 0
  seq  := e.data.getD 2 0
  ack  := e.data.getD 3 0
  doff := e.data.getD 4 0
  win  := e.data.getD 5 0
  rtx  := e.data.getD 6 0

/-- PACK's payload operand: `ev_data[7..7+ev_len)` when `ev_len <= 64` (R56). -/
def payloadOperand (e : Event) : List Byte :=
  if e.len.toNat ≤ Config.chunkSize then takePad e.len.toNat (e.data.drop Config.headerSize) else []

/-- The header's seven bytes in wire order (R49). -/
def Header.bytes (h : Header) : List Byte := [h.sp, h.dp, h.seq, h.ack, h.doff, h.win, h.rtx]

end Sys2Proof
end

