-- ==== Sys2Proof/Syntax.lean ====
section
/-! DEFINITION. The operations of the block: one constructor for each row of spec/opcode_table.json, with the
operands that R56 assembles for it. The rows TX.START, RX.START (one code with START), TX.TICK, RX.TICK and TX.RECV,
RX.RECV share an `ev_code`; the state of the block says which row an event is (R57, `select` in Decode.lean). -/

namespace Sys2Proof

/-- One operation with its operands. A frame operand (`len`, `raw`) is `ev_len` and the bytes `ev_data[0..ev_len)` when
`ev_len <= 71`, "and the length alone otherwise" (R56); PACK's is the header, `ev_len` and the payload bytes when
`ev_len <= 64`. -/
inductive Instr where
  | nop                                                     -- NOP, R104
  | cfgwr (reg : BitVec 8) (val : Word)                     -- CFGWR, R105
  | start                                                   -- START, R107
  | txStart                                                 -- TX.START, R78
  | rxStart                                                 -- RX.START, R93
  | txTick                                                  -- TX.TICK, R79
  | rxTick                                                  -- RX.TICK, R94
  | txRecv (len : BitVec 7) (raw : List Byte)               -- TX.RECV, R82
  | rxRecv (len : BitVec 7) (raw : List Byte)               -- RX.RECV, R96
  | pack (len : BitVec 7) (hdr : Header) (payload : List Byte) -- PACK, R72
  | unpack (len : BitVec 7) (raw : List Byte)               -- UNPACK, R73
  | rsv7                                                    -- RSV (0x7), R109
  | rsv8F (code : BitVec 4)                                 -- RSV (0x8-0xF), R109
  deriving DecidableEq, Repr

end Sys2Proof
end

