-- ==== Sys2Proof/WellFormed.lean ====
section
/-! DEFINITION. Which operations the event port can carry: the operand byte strings have the length `ev_len` says
(R53, R56), and a reserved code of the second row is 0x8 to 0xF (R54). -/

namespace Sys2Proof

/-- R56: the operand of RECV and UNPACK has `ev_len` bytes when `ev_len <= 71` and none otherwise. -/
def frameOperandOk (len : BitVec 7) (raw : List Byte) : Bool :=
  raw.length == (if len.toNat ≤ Config.maxFrame then len.toNat else 0)

/-- R56: the payload operand of PACK has `ev_len` bytes when `ev_len <= 64` and none otherwise. -/
def payloadOperandOk (len : BitVec 7) (payload : List Byte) : Bool :=
  payload.length == (if len.toNat ≤ Config.chunkSize then len.toNat else 0)

/-- The operations that some event carries. -/
def Instr.wellFormed : Instr → Bool
  | .nop => true
  | .cfgwr _ _ => true
  | .start => true
  | .txStart => true
  | .rxStart => true
  | .txTick => true
  | .rxTick => true
  | .txRecv len raw => frameOperandOk len raw
  | .rxRecv len raw => frameOperandOk len raw
  | .pack len _ payload => payloadOperandOk len payload
  | .unpack len raw => frameOperandOk len raw
  | .rsv7 => true
  | .rsv8F code => decide (8 ≤ code.toNat)

end Sys2Proof
end

