-- ==== Sys2Proof/Decode.lean ====
section
/-! DEFINITION. From the event port to an operation (R53 to R58), and the encoder. The port is parallel wires; so that
an event is a list of bytes as well, its fields are laid out as a 78-byte image (log entry 2): byte 0 `ev_code` in bits
3:0, byte 1 `ev_reg`, bytes 2 to 5 `ev_val` (least significant first), byte 6 `ev_len` in bits 6:0, bytes 7 to 77
`ev_data[0]` to `ev_data[70]`. -/

namespace Sys2Proof

/-- Why a list of bytes is no image of an event. -/
inductive DecodeError where
  | length     -- not 78 bytes
  | codeBits   -- bits 7:4 of byte 0, which are no wires of `ev_code[3:0]`, are set
  | lenBit     -- bit 7 of byte 6, which is no wire of `ev_len[6:0]`, is set
  deriving DecidableEq, Repr

/-- Read the port's fields from an image. Total on any bytes. -/
def decodeImage : List Byte → Except DecodeError Event
  | code :: reg :: v0 :: v1 :: v2 :: v3 :: len :: data =>
    if data.length ≠ Config.maxFrame then .error .length
    else if 16 ≤ code.toNat then .error .codeBits
    else if 128 ≤ len.toNat then .error .lenBit
    else .ok { code := code.setWidth 4, reg := reg, val := v3 ++ v2 ++ v1 ++ v0, len := len.setWidth 7, data := data }
  | _ => .error .length

/-- The states in which START and CFGWR run their rules (R57, R105, R107): no connection is open and no fault was
taken. -/
def ControlState.ready : ControlState → Bool
  | .idle => true
  | .txWait => false
  | .txDone => true
  | .rxWait => false
  | .rxDone => true
  | .error => false

/-- The row of a START event (R57, R107): TX.START when the sender's checks pass, RX.START when the receiver's
pass, START itself in every other case. -/
def selectStart (sel : Selector) : Instr :=
  if sel.state.ready && sel.startOk then
    if sel.role = 0 then .txStart else if sel.role = 1 then .rxStart else .start
  else .start

/-- The row of a TICK event (R57): RX.TICK in `RX_WAIT`, TX.TICK elsewhere (its row lists the states that ignore it). -/
def selectTick (sel : Selector) : Instr :=
  if sel.state = .rxWait then .rxTick else .txTick

/-- The row of a RECV event (R57): RX.RECV in `RX_WAIT`, TX.RECV elsewhere (its row lists the states that ignore it). -/
def selectRecv (sel : Selector) (e : Event) : Instr :=
  if sel.state = .rxWait then .rxRecv e.len (frameOperand e) else .txRecv e.len (frameOperand e)

/-- The operation an event is (R54, R57). Total: "every pair of a 4-bit code and a held state has exactly one entry".
A field the row does not name is ignored (R53). -/
def select (sel : Selector) (e : Event) : Instr :=
  match e.code.toNat with
  | 0 => .nop
  | 1 => .cfgwr e.reg e.val
  | 2 => selectStart sel
  | 3 => selectTick sel
  | 4 => selectRecv sel e
  | 5 => .pack e.len (headerOperand e) (payloadOperand e)
  | 6 => .unpack e.len (frameOperand e)
  | 7 => .rsv7
  | _ => .rsv8F e.code

/-- Decode an image in the context the block gives it. -/
def decode (sel : Selector) (image : List Byte) : Except DecodeError Instr :=
  match decodeImage image with
  | .ok e => .ok (select sel e)
  | .error r => .error r

/-- The `ev_code` of a row (R54). -/
def Instr.code : Instr → BitVec 4
  | .nop => 0
  | .cfgwr _ _ => 1
  | .start => 2
  | .txStart => 2
  | .rxStart => 2
  | .txTick => 3
  | .rxTick => 3
  | .txRecv _ _ => 4
  | .rxRecv _ _ => 4
  | .pack _ _ _ => 5
  | .unpack _ _ => 6
  | .rsv7 => 7
  | .rsv8F code => code

/-- An event with only its code set: format EV-N (R55). -/
def Event.plain (code : BitVec 4) : Event := { code := code, reg := 0, val := 0, len := 0, data := [] }

/-- The event that carries an operation (R55), every unused field zero. -/
def Instr.event : Instr → Event
  | .nop => Event.plain 0
  | .cfgwr reg val => { Event.plain 1 with reg := reg, val := val }
  | .start => Event.plain 2
  | .txStart => Event.plain 2
  | .rxStart => Event.plain 2
  | .txTick => Event.plain 3
  | .rxTick => Event.plain 3
  | .txRecv len raw => { Event.plain 4 with len := len, data := raw }
  | .rxRecv len raw => { Event.plain 4 with len := len, data := raw }
  | .pack len hdr payload => { Event.plain 5 with len := len, data := hdr.bytes ++ payload }
  | .unpack len raw => { Event.plain 6 with len := len, data := raw }
  | .rsv7 => Event.plain 7
  | .rsv8F code => Event.plain code

/-- The image of an event. -/
def encodeEvent (e : Event) : List Byte :=
  e.code.setWidth 8 :: e.reg ::
    e.val.extractLsb' 0 8 :: e.val.extractLsb' 8 8 :: e.val.extractLsb' 16 8 :: e.val.extractLsb' 24 8 ::
    e.len.setWidth 8 :: takePad Config.maxFrame e.data

/-- The image of an operation. -/
def encode (i : Instr) : List Byte := encodeEvent i.event

/-- The "condition" of a row of spec/opcode_table.json: where R57 runs an event of the row's code as this row. -/
def Instr.rowHolds (sel : Selector) : Instr → Bool
  | .nop => true
  | .cfgwr _ _ => true
  | .start => !(sel.state.ready && sel.startOk && (sel.role == 0 || sel.role == 1))
  | .txStart => sel.state.ready && sel.startOk && sel.role == 0
  | .rxStart => sel.state.ready && sel.startOk && sel.role == 1
  | .txTick => sel.state != .rxWait
  | .rxTick => sel.state == .rxWait
  | .txRecv _ _ => sel.state != .rxWait
  | .rxRecv _ _ => sel.state == .rxWait
  | .pack _ _ _ => true
  | .unpack _ _ => true
  | .rsv7 => true
  | .rsv8F _ => true

/-- The selector right after reset (R27): `IDLE`, role 0, and the reset configuration passes the sender's checks. -/
def Selector.reset : Selector := { state := .idle, role := 0, startOk := true }

/-- The `n` low bytes of a number, least significant first. -/
def bytesLE : Nat → Nat → List Byte
  | 0, _ => []
  | n + 1, w => BitVec.ofNat 8 w :: bytesLE n (w / 256)

/-- The image whose low `nbits` bits are `w` and whose other bits are 0. -/
def imageOfWord (nbits w : Nat) : List Byte := bytesLE 78 (w % 2 ^ nbits)

/-- The operation the decoder reads, right after reset, from an image given as a number. -/
def decodeTableWord (nbits w : Nat) : Option Instr :=
  match decode Selector.reset (imageOfWord nbits w) with
  | .ok i => some i
  | .error _ => none

end Sys2Proof
end

