-- ==== Sys2Proof/Machine/State.lean ====
section
/-! DEFINITION. The state of the block as plain data: the register map of R7 (each register once, at the width of its
field), the two buffers of R30, the output queue of R25, and the model's own fields for the ports. -/

namespace Sys2Proof.Machine

/-- A byte memory: pairs of index and byte, indices strictly rising. A listed byte has been written since power-on;
an unlisted one "hold[s] no defined value" (R36) and reads as none, so no entry can equal what an unlisted index
reads as. -/
abbrev Memory := List Host.Cell

/-- Everything the spec gives the machine. The comment of a register gives its register-map index and its rule. -/
structure State where
  cfgRole  : BitVec 2      -- 0x00 CFG_ROLE[1:0], R9
  cfgN     : BitVec 8      -- 0x01 CFG_N[7:0], R10
  cfgT     : BitVec 8      -- 0x02 CFG_T[7:0], R11
  cfgTr    : BitVec 8      -- 0x03 CFG_TR[7:0], R12
  cfgSport : Byte          -- 0x04 CFG_SPORT[7:0], R13
  cfgDport : Byte          -- 0x05 CFG_DPORT[7:0], R13
  txLen    : Word          -- 0x06 TX_LEN[31:0], R14
  ctl      : ControlState  -- 0x08 STATUS[2:0] STATE, R8
  malf     : Bool          -- 0x08 STATUS[3] MALF, R20
  cause    : Cause         -- 0x08 STATUS[7:4] CAUSE, R21
  txBase   : Word          -- 0x09 TX_BASE, R16
  txNext   : Word          -- 0x0A TX_NEXT, R16
  txTotal  : Word          -- 0x0B TX_TOTAL, R16
  rxExp    : Byte          -- 0x0C RX_EXP[7:0], R17
  rxLen    : Word          -- 0x0D RX_LEN, R18
  timer    : BitVec 8      -- 0x0E TIMER[7:0], R19
  txbuf    : Memory        -- TXBUF, R30
  rxbuf    : Memory        -- RXBUF, R30
  outq     : List Output   -- the output queue, head first, R25 and R132
  inputs   : List Input    -- the model's own: what the outside asks next, head first (log entry 3)
  reply    : Option Reply  -- the model's own: what a read port answered in the last step (log entry 3)
  draws    : Nat           -- the model's own: how many free bytes the RXBUF read port has drawn (log entry 6)
  deriving DecidableEq, Repr

/-- Where the spec says that a MODEL stops although the hardware goes on. -/
inductive Fault where
  /-- A sender rule (R75, in START, TICK or RECV) reads the `TXBUF` byte at this index and nothing has written it
  since power-on (R36, I6: "a model error, not a hardware cause"). Safe: the hardware sends whatever the storage
  holds. -/
  | unwrittenTxByte (index : Nat)
  deriving DecidableEq, Repr

/-- Requests that the spec says a model refuses, and an instruction without a meaning. -/
inductive Refusal where
  /-- exec: an instruction that has no meaning yet. No arm raises it. Safe. -/
  | notModelled (mnemonic : String)
  /-- The `TXBUF` write port: a write at an index below `TX_LEN` while `STATE = TX_WAIT` (R134: "A model refuses such
  a write (the run has no meaning)"). Safe. -/
  | txWriteInTxWait (index : Nat)
  /-- The `TXBUF` ports: an index that is not below `MAX_LEN` (R31: "a model refuses a host request that names one").
  Safe. -/
  | txIndex (index : Nat)
  /-- The `RXBUF` read port: an index that is not below `MAX_LEN` (R31). Safe. -/
  | rxIndex (index : Nat)
  /-- A connection of two instances (`act`): the outside gives one of them a RECV beside the transport's deliveries, so
  bytes, or a close, that the peer did not send as one `Send` or `Close` (R136, I13: a model refuses an adapter that
  merges, splits or corrupts frames). Safe. -/
  | recvNotFromTransport
  deriving DecidableEq, Repr

/-- The block right after the reset that follows power-on: R27 gives every register; nothing has written a buffer
byte (R36), nothing waits to leave and nothing is asked yet. -/
def State.reset : State where
  cfgRole  := 0
  cfgN     := 8
  cfgT     := 10
  cfgTr    := 10
  cfgSport := 0
  cfgDport := 0
  txLen    := 0
  ctl      := .idle
  malf     := false
  cause    := .none
  txBase   := 0
  txNext   := 0
  txTotal  := 0
  rxExp    := 0
  rxLen    := 0
  timer    := 0
  txbuf    := []
  rxbuf    := []
  outq     := []
  inputs   := []
  reply    := none
  draws    := 0

end Sys2Proof.Machine
end

