-- ==== Sys2Proof/Machine/Flags.lean ====
section
/-! DEFINITION. The field codes, the status word, the level outputs, the masks and the conditions the rules test. -/

namespace Sys2Proof.Machine

/-- `STATUS[2:0]` (R8). -/
def stateCode : ControlState → BitVec 3
  | .idle => 0
  | .txWait => 1
  | .txDone => 2
  | .rxWait => 3
  | .rxDone => 4
  | .error => 7

/-- `STATUS[7:4]` (R112). -/
def causeCode : Cause → BitVec 4
  | .none => 0
  | .invalidMode => 1
  | .illegalOp => 2
  | .peerClosed => 3
  | .rxOverflow => 4

/-- "Connection open" (R8): `open(STATE) = STATE in {TX_WAIT, RX_WAIT}`. -/
def connectionOpen : ControlState → Bool
  | .idle => false
  | .txWait => true
  | .txDone => false
  | .rxWait => true
  | .rxDone => false
  | .error => false

/-- `STATUS` as the read port shows it (R15): bits 31:8 read 0, then CAUSE, MALF, STATE. -/
def statusWord (s : State) : Word :=
  0#24 ++ causeCode s.cause ++ BitVec.ofBool s.malf ++ stateCode s.ctl

/-- The level output `busy` (R116). -/
def busy (s : State) : Bool := connectionOpen s.ctl

/-- The level output `done` (R116). -/
def done (s : State) : Bool := s.ctl == .txDone || s.ctl == .rxDone

/-- The level output `err` (R116). -/
def err (s : State) : Bool := s.ctl == .error

/-- `mask8(v) = v mod 256` (00_scope.md section 5, R65), negative integers included. -/
def mask8 (v : Int) : Byte := BitVec.ofInt 8 v

/-- `mask1(v) = v mod 2` in a byte (R65): bit 0 of the flag byte. -/
def mask1 (v : Int) : Byte := BitVec.ofInt 8 (v % 2)

/-- The least natural `q` with `q * b >= a`, for `b > 0` (00_scope.md section 5). -/
def ceilDiv (a b : Nat) : Nat := (a + b - 1) / b

/-- Modular distance of two 8-bit values: `dist(a, b) = (a - b) mod 256` (R5). -/
def seqDist (a b : Byte) : Nat := (a - b).toNat

/-- A length or an index bound is at most `MAX_LEN`. Every `MAX_LEN` is at least 19200 (R1), so the first test decides
small numbers by evaluation; `withinMaxLen_iff` says what it means. -/
def withinMaxLen (n : Nat) : Bool := decide (n ≤ Config.minMaxLen) || decide (n ≤ Config.maxLen)

/-- An index of `TXBUF` or `RXBUF` (R30): below `MAX_LEN`. -/
def indexOk (index : Nat) : Bool := withinMaxLen (index + 1)

/-- R107's checks of the sender: `1 <= CFG_N <= 127`, `CFG_T >= 1`, `TX_LEN <= MAX_LEN`. -/
def senderConfigOk (s : State) : Bool :=
  decide (1 ≤ s.cfgN.toNat) && decide (s.cfgN.toNat ≤ 127) && decide (s.cfgT ≠ 0) && withinMaxLen s.txLen.toNat

/-- R107's check of the receiver: `CFG_TR >= 1`. -/
def receiverConfigOk (s : State) : Bool := decide (s.cfgTr ≠ 0)

/-- R107's checks for the role in `CFG_ROLE`; roles 2 and 3 pass none. -/
def startOk (s : State) : Bool :=
  if s.cfgRole = 0 then senderConfigOk s else if s.cfgRole = 1 then receiverConfigOk s else false

/-- What selects the row of an event in this state (R57). -/
def selectorOf (s : State) : Selector := { state := s.ctl, role := s.cfgRole, startOk := startOk s }

/-- The distance of an ACK value from the window base (R77): the base is compared "only through `TX_BASE mod 256`"
(R4). -/
def ackDistance (s : State) (ack : Byte) : Nat := seqDist ack (BitVec.ofNat 8 s.txBase.toNat)

/-- An ACK is valid iff its distance from the base is below the window (R77). -/
def ackValid (s : State) (ack : Byte) : Bool := decide (ackDistance s ack < s.cfgN.toNat)

end Sys2Proof.Machine
end

