-- ==== Sys2Proof/Machine/Ops.lean ====
section
/-! DEFINITION. The named operations over the two buffers, the register map, the output queue, and the way into and
out of `ERROR`. -/

namespace Sys2Proof.Machine

/-! ### The byte memories (20_memory.md) -/

/-- One byte, none where nothing has written since power-on (R36). -/
def Memory.read : Memory → Nat → Option Byte
  | [], _ => none
  | (k, v) :: m, a => if k = a then some v else Memory.read m a

/-- Write one byte, keeping the indices strictly rising. -/
def Memory.write : Memory → Nat → Byte → Memory
  | [], a, v => [(a, v)]
  | (k, w) :: m, a, v =>
    if a < k then (a, v) :: (k, w) :: m
    else if a = k then (a, v) :: m
    else (k, w) :: Memory.write m a v

/-- Every index is at least `lo` and the indices strictly rise. -/
def Memory.risesFrom : Nat → Memory → Bool
  | _, [] => true
  | lo, (k, _) :: m => decide (lo ≤ k) && Memory.risesFrom (k + 1) m

/-- The canonical form. -/
def Memory.wf (m : Memory) : Bool := Memory.risesFrom 0 m

/-- The `n` bytes from index `a` on (`TXBUF[a..a+n)`), or the first index among them that nothing has written. -/
def Memory.readRange (m : Memory) : Nat → Nat → Except Nat (List Byte)
  | _, 0 => .ok []
  | a, n + 1 =>
    match Memory.read m a with
    | none => .error a
    | some v =>
      match Memory.readRange m (a + 1) n with
      | .error i => .error i
      | .ok vs => .ok (v :: vs)

/-- Write a byte string from index `a` on (R34: byte `k` to index `a + k`). -/
def Memory.writeRange (m : Memory) : Nat → List Byte → Memory
  | _, [] => m
  | a, v :: vs => Memory.writeRange (Memory.write m a v) (a + 1) vs

/-! ### The register map (10_state.md R6, R7, R22) -/

/-- What the register read port returns for an index (R22): the register, zero-extended, or 0 for a reserved or
unmapped index. -/
def readReg (s : State) (k : BitVec 8) : Word :=
  match k.toNat with
  | 0x00 => s.cfgRole.setWidth 32
  | 0x01 => s.cfgN.setWidth 32
  | 0x02 => s.cfgT.setWidth 32
  | 0x03 => s.cfgTr.setWidth 32
  | 0x04 => s.cfgSport.setWidth 32
  | 0x05 => s.cfgDport.setWidth 32
  | 0x06 => s.txLen
  | 0x08 => statusWord s
  | 0x09 => s.txBase
  | 0x0A => s.txNext
  | 0x0B => s.txTotal
  | 0x0C => s.rxExp.setWidth 32
  | 0x0D => s.rxLen
  | 0x0E => s.timer.setWidth 32
  | _ => 0

/-- Write a configuration register (R105): the value is cut to the field's width (R6). None for an index that is
read-only, reserved or unmapped (R106). -/
def writeCfg (s : State) (k : BitVec 8) (v : Word) : Option State :=
  match k.toNat with
  | 0x00 => some { s with cfgRole := v.setWidth 2 }
  | 0x01 => some { s with cfgN := v.setWidth 8 }
  | 0x02 => some { s with cfgT := v.setWidth 8 }
  | 0x03 => some { s with cfgTr := v.setWidth 8 }
  | 0x04 => some { s with cfgSport := v.setWidth 8 }
  | 0x05 => some { s with cfgDport := v.setWidth 8 }
  | 0x06 => some { s with txLen := v }
  | _ => none

/-! ### Outputs -/

/-- `emit`: the step's outputs enter the output queue in the order emitted (00_scope.md section 5, R45). -/
def emit (s : State) (os : List Output) : State := { s with outq := s.outq ++ os }

/-! ### Faults and reset -/

/-- `raise Fault(c)` (R114): CAUSE and STATE are written, one `Close` is emitted if a connection was open, and nothing
else of the event happens. Every meaning calls it on the state before the event. -/
def takeFault (c : Cause) (s : State) : State :=
  emit { s with cause := c, ctl := .error } (if connectionOpen s.ctl then [.close] else [])

/-- Reset (R127, R128), the only way out of `ERROR` (R117): every register takes its reset value (R27) and the output
queue is emptied without emitting its contents; `TXBUF` and `RXBUF` are not changed (R37). The model's own fields
other than the reply stay (log entry 10). -/
def resetBlock (s : State) : State :=
  { State.reset with txbuf := s.txbuf, rxbuf := s.rxbuf, inputs := s.inputs, draws := s.draws }

/-! ### The output port's fields (R59, R60) -/

/-- `out_code` of a result (R60). -/
def resultCode : ResultCode → BitVec 2
  | .frame => 0
  | .noFrame => 1
  | .malformed => 2
  | .badLen => 3

/-- The fields of the output port while it shows this output (R59): "bytes `0..out_len-1` meaningful; the rest 0". -/
def outputFields : Output → OutputFields
  | .send bytes => { kind := 0, code := 0, len := BitVec.ofNat 7 bytes.length, data := takePad Config.maxFrame bytes }
  | .close => { kind := 1, code := 0, len := 0, data := takePad Config.maxFrame [] }
  | .result c bytes =>
    { kind := 2, code := resultCode c, len := BitVec.ofNat 7 bytes.length, data := takePad Config.maxFrame bytes }

end Sys2Proof.Machine
end

