-- ==== Sys2Proof/Machine/Codec.lean ====
section
/-! DEFINITION. The frame codec (40_codec.md): `pack` and `unpack`, which read and write no state, and the operations
PACK and UNPACK. -/

namespace Sys2Proof.Machine

/-- `pack(f)` (R64): the masked header bytes in wire order, then the payload. -/
def packFrame (f : Frame) : List Byte :=
  [mask8 f.sp, mask8 f.dp, mask8 f.seq, mask8 f.ack, mask8 f.doff, mask8 f.win, mask1 f.rtx] ++ f.payload

/-- Bit 0 of a byte as a flag, 0 or 1 (R69: bits 7:1 are ignored). -/
def flagBit (b : Byte) : Int := (b.toNat % 2 : Nat)

/-- `unpack(L, raw)` (R66): an empty input is NoFrame (R67), one of 1 to 6 or more than 71 bytes is Malformed (R68). -/
def unpackFrame (len : Nat) (raw : List Byte) : Unpacked :=
  if len = 0 then .noFrame
  else if len < Config.headerSize then .malformed
  else if Config.maxFrame < len then .malformed
  else
    match raw with
    | sp :: dp :: seq :: ack :: doff :: win :: rtx :: payload =>
      .frame { sp := sp.toNat, dp := dp.toNat, seq := seq.toNat, ack := ack.toNat, doff := doff.toNat,
               win := win.toNat, rtx := flagBit rtx, payload := payload }
    | _ => .malformed

/-- The frame value PACK builds from its operands (R72). -/
def headerFrame (h : Header) (payload : List Byte) : Frame :=
  { sp := h.sp.toNat, dp := h.dp.toNat, seq := h.seq.toNat, ack := h.ack.toNat, doff := h.doff.toNat,
    win := h.win.toNat, rtx := h.rtx.toNat, payload := payload }

/-- The verdict of PACK (R72): BADLEN for a payload of more than 64 bytes, else the frame. -/
def packResult (len : BitVec 7) (h : Header) (payload : List Byte) : Output :=
  if Config.chunkSize < len.toNat then .result .badLen []
  else .result .frame (packFrame (headerFrame h payload))

/-- The verdict of UNPACK (R73): a decoded frame is laid out again as a frame. -/
def unpackResult (len : BitVec 7) (raw : List Byte) : Output :=
  match unpackFrame len.toNat raw with
  | .noFrame => .result .noFrame []
  | .malformed => .result .malformed []
  | .frame f => .result .frame (packFrame f)

/-- PACK (R72, R71): one Result in every STATE, no state written. -/
def execPack (len : BitVec 7) (h : Header) (payload : List Byte) (s : State) :
    Host.Outcome State Fault Refusal :=
  .next (emit s [packResult len h payload])

/-- UNPACK (R73, R71): one Result in every STATE, no state written; MALF is not set. -/
def execUnpack (len : BitVec 7) (raw : List Byte) (s : State) : Host.Outcome State Fault Refusal :=
  .next (emit s [unpackResult len raw])

end Sys2Proof.Machine
end

