-- ==== Sys2Proof/Machine/Receiver.lean ====
section
/-! DEFINITION. The receiver sequence tracker (42_receiver.md): the ACK frame and the rules R93, R94, R96. The meanings
of the rows RX.TICK and RX.RECV stand in Events.lean, of RX.START in Control.lean. -/

namespace Sys2Proof.Machine

/-- `ackFrame(e)` (R92): `ack = e - 1`, which packs as 0xFF for `e = 0`; the payload is empty. -/
def ackFrame (s : State) (e : Byte) : List Byte :=
  packFrame { sp := s.cfgSport.toNat, dp := s.cfgDport.toNat, seq := 0, ack := (e.toNat : Int) - 1, doff := 7,
              win := 0, rtx := 0, payload := [] }

/-- RX.START (R93): nothing received yet; nothing is emitted and old `RXBUF` bytes stay (R37). -/
def openReceiver (s : State) : Host.Outcome State Fault Refusal :=
  .next { s with rxExp := 0, rxLen := 0, timer := 0, malf := false, ctl := .rxWait }

/-- RX.TICK (R94): count the tick; at `CFG_TR` restart the wait. Nothing is emitted. -/
def receiverTick (s : State) : Host.Outcome State Fault Refusal :=
  if s.cfgTr.toNat ≤ s.timer.toNat + 1 then .next { s with timer := 0 }
  else .next { s with timer := BitVec.ofNat 8 (s.timer.toNat + 1) }

/-- The frame is accepted (R97): its payload is appended at `RX_LEN` and `RX_EXP` advances modulo 256; the ACK carries
the value after the update (R99). -/
def acceptPayload (p : List Byte) (s : State) : State :=
  emit { s with timer := 0, rxbuf := Memory.writeRange s.rxbuf s.rxLen.toNat p,
                rxLen := BitVec.ofNat 32 (s.rxLen.toNat + p.length), rxExp := s.rxExp + 1 }
    [.send (ackFrame s (s.rxExp + 1))]

/-- The frame is discarded (R98) and the last ACK is sent again (R99). -/
def discardFrame (s : State) : State := emit { s with timer := 0 } [.send (ackFrame s s.rxExp)]

/-- RX.RECV (R96): the expected frame is accepted unless its payload would pass `MAX_LEN` (R102); any other decoded
frame is discarded; a malformed frame sets MALF and nothing else (R101); an empty one ends the connection (R100). -/
def receiverRecv (len : BitVec 7) (raw : List Byte) (s : State) : Host.Outcome State Fault Refusal :=
  match unpackFrame len.toNat raw with
  | .malformed => .next { s with malf := true }
  | .noFrame => .next (emit { s with ctl := .rxDone } [.close])
  | .frame f =>
    if f.seq = s.rxExp.toNat then
      if withinMaxLen (s.rxLen.toNat + f.payload.length) then .next (acceptPayload f.payload s)
      else .next (takeFault .rxOverflow s)
    else .next (discardFrame s)

end Sys2Proof.Machine
end

