-- ==== Sys2Proof/Machine/Sender.lean ====
section
/-! DEFINITION. The sender window tracker (41_sender.md): the frames it sends and the rules R78, R79, R82. The meanings
of the rows TX.TICK and TX.RECV stand in Events.lean, of TX.START in Control.lean. -/

namespace Sys2Proof.Machine

/-- `total = ceil_div(TX_LEN, 64)` (R74). -/
def chunkCount (s : State) : Nat := ceilDiv s.txLen.toNat Config.chunkSize

/-- `chunk(i) = TXBUF[64*i .. min(64*i + 64, TX_LEN))` (R74), or the model fault of an unwritten byte (R36). -/
def chunk (s : State) (i : Nat) : Except Fault (List Byte) :=
  match Memory.readRange s.txbuf (Config.chunkSize * i)
      (min (Config.chunkSize * i + Config.chunkSize) s.txLen.toNat - Config.chunkSize * i) with
  | .error a => .error (.unwrittenTxByte a)
  | .ok payload => .ok payload

/-- The bytes of data frame `i` with flag `r` and this payload (R75). -/
def dataFrameBytes (s : State) (i : Nat) (r : Int) (payload : List Byte) : List Byte :=
  packFrame { sp := s.cfgSport.toNat, dp := s.cfgDport.toNat, seq := i, ack := 0, doff := 7, win := 0, rtx := r,
              payload := payload }

/-- Data frame `i` with flag `r`, rebuilt from `TXBUF` each time (R75). -/
def dataFrame (s : State) (i : Nat) (r : Int) : Except Fault (List Byte) :=
  match chunk s i with
  | .error f => .error f
  | .ok payload => .ok (dataFrameBytes s i r payload)

/-- The sends of the `n` data frames from index `a` on, in ascending order. -/
def sendFrames (s : State) (r : Int) : Nat → Nat → Except Fault (List Output)
  | _, 0 => .ok []
  | a, n + 1 =>
    match dataFrame s a r with
    | .error f => .error f
    | .ok bytes =>
      match sendFrames s r (a + 1) n with
      | .error f => .error f
      | .ok os => .ok (.send bytes :: os)

/-- `sendRange(a, b, r)` (R76): the frames of index in `[a, b)`; none when `a >= b`. -/
def sendRange (s : State) (a b : Nat) (r : Int) : Except Fault (List Output) := sendFrames s r a (b - a)

/-- TX.START (R78): number the input, send the initial burst, start the first wait; an empty input is complete at once
(R83). -/
def openSender (s : State) : Host.Outcome State Fault Refusal :=
  let total := chunkCount s
  let n0 := min s.cfgN.toNat total
  match sendRange s 0 n0 0 with
  | .error f => .fault f
  | .ok burst =>
    let s' := { s with txTotal := BitVec.ofNat 32 total, txBase := 0, txNext := BitVec.ofNat 32 n0, timer := 0,
                       malf := false }
    if total = 0 then .next (emit { s' with ctl := .txDone } (burst ++ [.close]))
    else .next (emit { s' with ctl := .txWait } burst)

/-- The end of the outstanding window, `min(TX_BASE + N, TX_TOTAL)`, at a window base (R80, R84). -/
def windowEnd (s : State) (base : Nat) : Nat := min (base + s.cfgN.toNat) s.txTotal.toNat

/-- TX.TICK (R79): count the tick; at `CFG_T` restart the wait and send every outstanding frame again with the flag
set (R80), which changes no register. -/
def senderTick (s : State) : Host.Outcome State Fault Refusal :=
  if s.cfgT.toNat ≤ s.timer.toNat + 1 then
    match sendRange s s.txBase.toNat (windowEnd s s.txBase.toNat) 1 with
    | .error f => .fault f
    | .ok resent => .next (emit { s with timer := 0 } resent)
  else .next { s with timer := BitVec.ofNat 8 (s.timer.toNat + 1) }

/-- A valid ACK at distance `d` (R82): the base advances past the acknowledged frame; either the transfer is complete
(R83) or the frames that entered the window are sent for the first time (R84). -/
def advanceWindow (s : State) (d : Nat) : Host.Outcome State Fault Refusal :=
  let base' := s.txBase.toNat + d + 1
  let s' := { s with timer := 0, txBase := BitVec.ofNat 32 base' }
  if s.txTotal.toNat ≤ base' then .next (emit { s' with ctl := .txDone } [.close])
  else
    match sendRange s s.txNext.toNat (windowEnd s base') 0 with
    | .error f => .fault f
    | .ok fill =>
      .next (emit { s' with txNext := BitVec.ofNat 32 (max s.txNext.toNat (windowEnd s base')) } fill)

/-- TX.RECV (R82): an ACK frame advances the window if it is valid and otherwise only restarts the wait (R81, R85); a
malformed frame sets MALF and nothing else (R86); an empty one faults (R87). -/
def senderRecv (len : BitVec 7) (raw : List Byte) (s : State) : Host.Outcome State Fault Refusal :=
  match unpackFrame len.toNat raw with
  | .malformed => .next { s with malf := true }
  | .noFrame => .next (takeFault .peerClosed s)
  | .frame f =>
    if ackValid s (mask8 f.ack) then advanceWindow s (ackDistance s (mask8 f.ack))
    else .next { s with timer := 0 }

end Sys2Proof.Machine
end

