-- ==== Sys2Proof/Machine/Control.lean ====
section
/-! DEFINITION. The control operations (43_control.md): NOP, CFGWR, START with its rows TX.START and RX.START, and the
reserved codes. The outcome of an event is the entry of R57's table for its code and STATE. -/

namespace Sys2Proof.Machine

/-- NOP (R104): nothing, in any state. -/
def execNop (s : State) : Host.Outcome State Fault Refusal := .next s

/-- CFGWR (R105): the write, or ILLEGAL_OP for an index that is not 0x00 to 0x06 (R106) and while a connection is open
(R108); ignored in `ERROR` (R111). -/
def execCfgwr (k : BitVec 8) (v : Word) (s : State) : Host.Outcome State Fault Refusal :=
  match s.ctl with
  | .txWait => .next (takeFault .illegalOp s)
  | .rxWait => .next (takeFault .illegalOp s)
  | .error => .next s
  | .idle | .txDone | .rxDone =>
    match writeCfg s k v with
    | some s' => .next s'
    | none => .next (takeFault .illegalOp s)

/-- R107: check the configuration for the role in `CFG_ROLE`, then open a connection in it, or fault INVALID_MODE. -/
def startRole (s : State) : Host.Outcome State Fault Refusal :=
  if s.cfgRole = 0 then
    if senderConfigOk s then openSender s else .next (takeFault .invalidMode s)
  else if s.cfgRole = 1 then
    if receiverConfigOk s then openReceiver s else .next (takeFault .invalidMode s)
  else .next (takeFault .invalidMode s)

/-- A START event (R57): R107 when no connection is open, ILLEGAL_OP while one is (R108), ignored in `ERROR` (R111). -/
def startEvent (s : State) : Host.Outcome State Fault Refusal :=
  match s.ctl with
  | .txWait => .next (takeFault .illegalOp s)
  | .rxWait => .next (takeFault .illegalOp s)
  | .error => .next s
  | .idle | .txDone | .rxDone => startRole s

/-- START (R107). -/
def execStart (s : State) : Host.Outcome State Fault Refusal := startEvent s

/-- TX.START: the START event whose checks pass in role 0, which runs R78 (`openSender`). The rule is "reached through
43_control.md rule R107 only after its checks pass", so R107 stands in front of it here too. -/
def execTxStart (s : State) : Host.Outcome State Fault Refusal := startEvent s

/-- RX.START: the START event whose check passes in role 1, which runs R93 (`openReceiver`), reached through R107. -/
def execRxStart (s : State) : Host.Outcome State Fault Refusal := startEvent s

/-- A reserved code (R109): ILLEGAL_OP, which closes an open connection; ignored in `ERROR` (R111). No operand is
read. -/
def reservedEvent (s : State) : Host.Outcome State Fault Refusal :=
  match s.ctl with
  | .error => .next s
  | .idle | .txWait | .txDone | .rxWait | .rxDone => .next (takeFault .illegalOp s)

/-- RSV (0x7) (R109). -/
def execRsv7 (s : State) : Host.Outcome State Fault Refusal := reservedEvent s

/-- RSV (0x8-0xF) (R109): the code is not looked at further. -/
def execRsv8F (_code : BitVec 4) (s : State) : Host.Outcome State Fault Refusal := reservedEvent s

end Sys2Proof.Machine
end

