-- ==== Sys2Proof/Machine/Events.lean ====
section
/-! DEFINITION. The events whose rule STATE selects (R57): a TICK is TX.TICK in `TX_WAIT` and RX.TICK in `RX_WAIT`, a
RECV is TX.RECV and RX.RECV there, and both are ignored in every other state (R110, R111). The two rows of one code
are two names of one event, so their meanings agree in every state (log entry 4). -/

namespace Sys2Proof.Machine

/-- A TICK event (R57). -/
def tickEvent (s : State) : Host.Outcome State Fault Refusal :=
  match s.ctl with
  | .txWait => senderTick s
  | .rxWait => receiverTick s
  | .idle | .txDone | .rxDone | .error => .next s

/-- A RECV event (R57). -/
def recvEvent (len : BitVec 7) (raw : List Byte) (s : State) : Host.Outcome State Fault Refusal :=
  match s.ctl with
  | .txWait => senderRecv len raw s
  | .rxWait => receiverRecv len raw s
  | .idle | .txDone | .rxDone | .error => .next s

/-- TX.TICK: the TICK event, which in `TX_WAIT` runs R79 (`senderTick`). -/
def execTxTick (s : State) : Host.Outcome State Fault Refusal := tickEvent s

/-- RX.TICK: the TICK event, which in `RX_WAIT` runs R94 (`receiverTick`). -/
def execRxTick (s : State) : Host.Outcome State Fault Refusal := tickEvent s

/-- TX.RECV: the RECV event, which in `TX_WAIT` runs R82 (`senderRecv`). -/
def execTxRecv (len : BitVec 7) (raw : List Byte) (s : State) : Host.Outcome State Fault Refusal :=
  recvEvent len raw s

/-- RX.RECV: the RECV event, which in `RX_WAIT` runs R96 (`receiverRecv`). -/
def execRxRecv (len : BitVec 7) (raw : List Byte) (s : State) : Host.Outcome State Fault Refusal :=
  recvEvent len raw s

end Sys2Proof.Machine
end

