-- ==== Sys2Proof/Machine/Dispatch.lean ====
section
/-! DEFINITION. One arm per row of spec/opcode_table.json. -/

namespace Sys2Proof.Machine

/-- The meaning of an operation in a state. -/
def exec (i : Instr) (s : State) : Host.Outcome State Fault Refusal :=
  match i with
  | .nop => Sys2Proof.Machine.execNop s
  | .cfgwr reg val => Sys2Proof.Machine.execCfgwr reg val s
  | .start => Sys2Proof.Machine.execStart s
  | .txStart => Sys2Proof.Machine.execTxStart s
  | .rxStart => Sys2Proof.Machine.execRxStart s
  | .txTick => Sys2Proof.Machine.execTxTick s
  | .rxTick => Sys2Proof.Machine.execRxTick s
  | .txRecv len raw => Sys2Proof.Machine.execTxRecv len raw s
  | .rxRecv len raw => Sys2Proof.Machine.execRxRecv len raw s
  | .pack len hdr payload => Sys2Proof.Machine.execPack len hdr payload s
  | .unpack len raw => Sys2Proof.Machine.execUnpack len raw s
  | .rsv7 => Sys2Proof.Machine.execRsv7 s
  | .rsv8F code => Sys2Proof.Machine.execRsv8F code s

end Sys2Proof.Machine
end

