-- ==== Sys2Proof/Machine/Inputs.lean ====
section
/-! DEFINITION. What the outside does to the block at the operation level (00_scope.md section 5, D1): one event, one
host access or one reset per step, in the order the state's `inputs` list gives (log entry 3). -/

namespace Sys2Proof.Machine

/-- Accept one event (R53): decode it in the state's context and run its rule. -/
def acceptEvent (e : Event) (s : State) : Host.Outcome State Fault Refusal := exec (select (selectorOf s) e) s

/-- The host writes one `TXBUF` byte (R33), in every state; refused below `TX_LEN` in `TX_WAIT` (R134) and at an index
that does not exist (R31). -/
def hostWriteTx (index : Nat) (value : Byte) (s : State) : Host.Outcome State Fault Refusal :=
  if indexOk index then
    if s.ctl = .txWait ∧ index < s.txLen.toNat then .refused (.txWriteInTxWait index)
    else .next { s with txbuf := Memory.write s.txbuf index value }
  else .refused (.txIndex index)

/-- The host reads one register (R22): no side effect. -/
def hostReadReg (index : BitVec 8) (s : State) : State := { s with reply := some (.word (readReg s index)) }

/-- What the `TXBUF` read port shows (R30, R43): the byte written last, or what the storage holds. -/
def txByte (s : State) (index : Nat) : Byte :=
  match Memory.read s.txbuf index with
  | some v => v
  | none => Config.freeTxByte index

/-- The host reads one `TXBUF` byte (R30): no side effect (R43). -/
def hostReadTx (index : Nat) (s : State) : Host.Outcome State Fault Refusal :=
  if indexOk index then .next { s with reply := some (.byte (txByte s index)) }
  else .refused (.txIndex index)

/-- The defined byte of `RXBUF` at an index: one below `RX_LEN` (R137; I7: at or above `RX_LEN` "any value on a host
read"). -/
def rxByte (s : State) (index : Nat) : Option Byte :=
  if index < s.rxLen.toNat then Memory.read s.rxbuf index else none

/-- What the `RXBUF` read port answers and the number of free bytes drawn after it: the received byte below `RX_LEN`,
a fresh free byte elsewhere (R36 "a draw under no law", I7). -/
def rxAnswer (s : State) (index : Nat) : Byte × Nat :=
  match rxByte s index with
  | some v => (v, s.draws)
  | none => (Config.freeRxByte s.draws, s.draws + 1)

/-- The host reads one `RXBUF` byte (R35): no side effect on the block (R43). -/
def hostReadRx (index : Nat) (s : State) : Host.Outcome State Fault Refusal :=
  if indexOk index then .next { s with reply := some (.byte (rxAnswer s index).1), draws := (rxAnswer s index).2 }
  else .refused (.rxIndex index)

/-- One operation-level step of the outside on the block. -/
def applyInput (i : Input) (s : State) : Host.Outcome State Fault Refusal :=
  match i with
  | .event e => acceptEvent e s
  | .writeTx index value => hostWriteTx index value s
  | .readReg index => .next (hostReadReg index s)
  | .readTx index => hostReadTx index s
  | .readRx index => hostReadRx index s
  | .rst => .next (resetBlock s)

/-- Between two steps every output of the earlier one leaves on the output port (R25: "At the operation level of the
model the queue is always empty between steps"), and the read port's answer is taken. -/
def settle (s : State) : State := { s with outq := [], reply := none }

/-- Run what the outside asks next; with nothing asked, nothing happens. -/
def runNext (s : State) : Host.Outcome State Fault Refusal :=
  match s.inputs with
  | [] => .next (settle s)
  | i :: rest => applyInput i { settle s with inputs := rest }

/-- Put an event in front of everything the outside asks. -/
def presentEvent (e : Event) (s : State) : State := { s with inputs := .event e :: s.inputs }

/-- Put the event of an image in front; an image that is no event presents nothing. -/
def presentImage (image : List Byte) (s : State) : State :=
  match decodeImage image with
  | .ok e => presentEvent e s
  | .error _ => s

/-- Go on with a next state, or stop as the first part stopped. -/
def andThen {α β : Type} (o : Host.Outcome α Fault Refusal) (f : α → Host.Outcome β Fault Refusal) :
    Host.Outcome β Fault Refusal :=
  match o with
  | .next a => f a
  | .fault r => .fault r
  | .refused r => .refused r

/-- A run of host requests and events, one step each, the outputs of every step collected in order. -/
def runInputs : List Input → State → Host.Outcome (State × List Output) Fault Refusal
  | [], s => .next (s, [])
  | i :: rest, s =>
    andThen (applyInput i (settle s)) fun s' =>
      andThen (runInputs rest s') fun r => .next (r.1, s'.outq ++ r.2)

end Sys2Proof.Machine
end

