-- ==== Sys2Proof/Machine/Step.lean ====
section
/-! DEFINITION. One operation-level step (D1: "one event is one atomic step"), and how the host of this pipeline places
an event for the next step. -/

namespace Sys2Proof.Machine

/-- One step: the next thing the outside asks. -/
def step (s : State) : Host.Outcome State Fault Refusal := runNext s

/-- The state with this event at the head of what the outside asks, so that the next step accepts it. -/
def State.withFetchWord (s : State) (nbits w : Nat) : State := presentImage (imageOfWord nbits w) s

end Sys2Proof.Machine
end

