-- ==== Sys2Proof/Machine/Boot.lean ====
section
/-! DEFINITION. How a host brings an instance up (70_reset_and_hazards.md R129, R130), and the pseudo-instructions of
30_encoding.md R62, as lists of events. -/

namespace Sys2Proof.Machine

/-- The event `CFGWR k, v` (R61). -/
def cfgwrEvent (k : BitVec 8) (v : Word) : Event := (Instr.cfgwr k v).event

/-- The event `RECV [bytes]` (R61): `ev_len` is the count of bytes. The transport delivers a frame so (R136). -/
def recvBytes (bytes : List Byte) : Event :=
  { Event.plain 4 with len := BitVec.ofNat 7 bytes.length, data := bytes }

/-- `CLOSE` (R62): `RECV []`. -/
def closeEvent : Event := recvBytes []

/-- `ACKIN a` (R62): an ACK frame with `ack = a`. -/
def ackIn (a : Byte) : Event := recvBytes [0, 0, 0, a, 7, 0, 0]

/-- `DATAIN s, [payload]` (R62): a data frame with `seq = s`, first send. -/
def dataIn (s : Byte) (payload : List Byte) : Event := recvBytes ([0, 0, s, 0, 7, 0, 0] ++ payload)

/-- `RTXIN s, [payload]` (R62): a data frame with `seq = s`, re-send. -/
def rtxIn (s : Byte) (payload : List Byte) : Event := recvBytes ([0, 0, s, 0, 7, 0, 1] ++ payload)

/-- `TICKS n` (R62): `n` consecutive TICK events. -/
def ticks (n : Nat) : List Event := List.replicate n (Event.plain 3)

/-- Write a byte string into `TXBUF` from an index on, one byte per write (R33). -/
def writeTxFrom : Nat → List Byte → List Input
  | _, [] => []
  | a, v :: vs => .writeTx a v :: writeTxFrom (a + 1) vs

/-- The sender's boot (R129): reset, the input bytes, `TX_LEN`, the configuration, role 0, START. The transport
connection of step 4 is outside the block. -/
def senderBoot (input : List Byte) (n t sport dport : Byte) : List Input :=
  .rst :: writeTxFrom 0 input ++
    [.event (cfgwrEvent 0x06 (BitVec.ofNat 32 input.length)), .event (cfgwrEvent 0x01 (n.setWidth 32)),
     .event (cfgwrEvent 0x02 (t.setWidth 32)), .event (cfgwrEvent 0x04 (sport.setWidth 32)),
     .event (cfgwrEvent 0x05 (dport.setWidth 32)), .event (cfgwrEvent 0x00 0), .event (Event.plain 2)]

/-- The receiver's boot (R130): reset, role 1, the configuration, START. -/
def receiverBoot (tr sport dport : Byte) : List Input :=
  [.rst, .event (cfgwrEvent 0x00 1), .event (cfgwrEvent 0x03 (tr.setWidth 32)),
   .event (cfgwrEvent 0x04 (sport.setWidth 32)), .event (cfgwrEvent 0x05 (dport.setWidth 32)),
   .event (Event.plain 2)]

end Sys2Proof.Machine
end

