-- ==== Sys2Proof/Machine/Connection.lean ====
section
/-! DEFINITION. Two instances and the transport between them (20_memory.md R47, R48; D22). The transport keeps order,
may drop a frame, never corrupts or duplicates one, and delivers a close as one empty RECV after the frames of its
side (log entry 11); the order of everything that happens is free, so it is the list of actions. -/

namespace Sys2Proof.Machine

/-- What travels on the transport in one direction. -/
inductive Packet where
  | frame (bytes : List Byte)
  | close
  deriving DecidableEq, Repr

/-- A connection: the two instances, which "share no state" (R47; one `MAX_LEN` is log entry 1), and what is under way to each, oldest first. -/
structure Connection where
  snd   : State
  rcv   : State
  toRcv : List Packet
  toSnd : List Packet
  deriving DecidableEq, Repr

/-- What can happen next in a connection (R48, R119). A close is not dropped (D22: "The default is that the close is
always delivered"). -/
inductive Action where
  | atSender (i : Input)     -- the sender's host or timebase, never its transport
  | atReceiver (i : Input)   -- the receiver's host or timebase, never its transport
  | deliverToReceiver
  | deliverToSender
  | dropToReceiver
  | dropToSender
  deriving DecidableEq, Repr

/-- The packet an output becomes (R59): a Result goes to the host, not to the transport. -/
def Output.packet : Output → Option Packet
  | .send bytes => some (.frame bytes)
  | .close => some .close
  | .result _ _ => none

/-- A frame, and no close. -/
def Packet.isFrame : Packet → Bool
  | .frame _ => true
  | .close => false

/-- The packets of a step's outputs, in order. -/
def packets (os : List Output) : List Packet := os.filterMap Output.packet

/-- The RECV event that delivers a packet (R48: a close is "one RECV event with an empty frame"). -/
def Packet.event : Packet → Event
  | .frame bytes => recvBytes bytes
  | .close => closeEvent

/-- A RECV event, which only the transport may bring (R136). -/
def bringsRecv : Input → Bool
  | .event e => e.code == 4
  | .writeTx _ _ => false
  | .readReg _ => false
  | .readTx _ => false
  | .readRx _ => false
  | .rst => false

/-- Something happens at the sender; what it sends goes under way to the receiver, behind everything it sent before, a
Close included (DESIGN CHOICE after a restart, log entry 11). -/
def atSenderStep (i : Input) (c : Connection) : Host.Outcome Connection Fault Refusal :=
  andThen (applyInput i (settle c.snd)) fun s => .next { c with snd := s, toRcv := c.toRcv ++ packets s.outq }

/-- Something happens at the receiver; what it sends goes under way to the sender, behind everything it sent before, a
Close included (DESIGN CHOICE after a restart, log entry 11). -/
def atReceiverStep (i : Input) (c : Connection) : Host.Outcome Connection Fault Refusal :=
  andThen (applyInput i (settle c.rcv)) fun r => .next { c with rcv := r, toSnd := c.toSnd ++ packets r.outq }

/-- The oldest packet is lost if it is a frame; a close stays. -/
def dropHead : List Packet → List Packet
  | .frame _ :: rest => rest
  | ps => ps

/-- One action. A RECV reaches an instance as a delivery only, so it holds "exactly the bytes the peer sent as one `Send`",
or is empty for the peer's close (R136); one that the outside makes up is refused (I13; log entry 13). Delivering from an
empty direction does nothing. DESIGN CHOICE: an instance that is reset or started
again (D25) leaves both directions as they are, so packets of its earlier connection are still delivered, before what it
sends now (log entry 11). -/
def act (a : Action) (c : Connection) : Host.Outcome Connection Fault Refusal :=
  match a with
  | .atSender i => if bringsRecv i then .refused .recvNotFromTransport else atSenderStep i c
  | .atReceiver i => if bringsRecv i then .refused .recvNotFromTransport else atReceiverStep i c
  | .deliverToReceiver =>
    match c.toRcv with
    | [] => .next c
    | p :: rest => atReceiverStep (.event (Packet.event p)) { c with toRcv := rest }
  | .deliverToSender =>
    match c.toSnd with
    | [] => .next c
    | p :: rest => atSenderStep (.event (Packet.event p)) { c with toSnd := rest }
  | .dropToReceiver => .next { c with toRcv := dropHead c.toRcv }
  | .dropToSender => .next { c with toSnd := dropHead c.toSnd }

/-- A run of actions. -/
def runActions : List Action → Connection → Host.Outcome Connection Fault Refusal
  | [], c => .next c
  | a :: rest, c => andThen (act a c) (runActions rest)

/-- The connection after both boots: what the sender sent at START is under way. -/
def openedConnection (s r : State) (sent : List Output) : Connection :=
  { snd := s, rcv := r, toRcv := packets sent, toSnd := [] }

end Sys2Proof.Machine
end

