-- ==== Sys2Proof/Machine/Cycle.lean ====
section
/-! DEFINITION. The cycle-level port protocol of R132 over the same state: `ev_valid`/`ev_ready` and
`out_valid`/`out_ready` handshakes, the output queue, the reset input and the host's read and write ports, one clock
cycle at a time. What the spec leaves open inside one cycle is log entry 8. -/

namespace Sys2Proof.Machine

/-- The input wires in one cycle with `rst` (R127), the event port (R53, R132: an event is on it iff `ev_valid = 1`),
`out_ready`, the `TXBUF` write port (R33) and the three read ports (R22, R30, R35). -/
structure CycleIn where
  rst      : Bool
  ev       : Option Event
  outReady : Bool
  txWrite  : Option (Nat × Byte)
  regRead  : Option (BitVec 8)
  txRead   : Option Nat
  rxRead   : Option Nat
  deriving DecidableEq, Repr

/-- The output wires in one cycle, and what crosses the ports at its edge. -/
structure CycleOut where
  evReady  : Bool            -- ev_ready
  accepted : Option Event    -- the event accepted at this edge
  shown    : Option Output   -- out_valid with the head of the queue
  left     : Option Output   -- the output that leaves at this edge
  regData  : Option Word
  txData   : Option Byte
  rxData   : Option Byte
  deriving DecidableEq, Repr

/-- R132: "`ev_ready = 1` exactly when the output queue is empty and `rst = 0`". -/
def eventReady (c : CycleIn) (s : State) : Bool := s.outq.isEmpty && !c.rst

/-- The event accepted at this cycle's edge (R132, R133). -/
def acceptedEvent (c : CycleIn) (s : State) : Option Event := if eventReady c s then c.ev else none

/-- The output that leaves at this cycle's edge: the head of the queue when `out_ready = 1`; none during a reset, which
empties the queue "without emitting its contents" (R127). -/
def leavingOutput (c : CycleIn) (s : State) : Option Output :=
  if c.outReady && !c.rst then s.outq.head? else none

/-- What the clock edge does (R132, R127): a reset, or the accepted event's rule, or the head leaves the queue. -/
def cycleEdge (c : CycleIn) (s : State) : Host.Outcome State Fault Refusal :=
  if c.rst then .next (resetBlock s)
  else
    match acceptedEvent c s with
    | some e => acceptEvent e s
    | none => .next { s with outq := if c.outReady then s.outq.tail else s.outq }

/-- The `TXBUF` write port at the end of the cycle, after the event's rule (R33: not seen by an event of its own
cycle). -/
def cycleWrite (c : CycleIn) (s : State) : Host.Outcome State Fault Refusal :=
  match c.txWrite with
  | some (index, value) => hostWriteTx index value s
  | none => .next s

/-- A read port is given an index that does not exist (R31). -/
def badRead (c : CycleIn) : Option Refusal :=
  match c.txRead, c.rxRead with
  | some i, r =>
    if indexOk i then
      match r with
      | some j => if indexOk j then none else some (.rxIndex j)
      | none => none
    else some (.txIndex i)
  | none, some j => if indexOk j then none else some (.rxIndex j)
  | none, none => none

/-- The free bytes drawn after this cycle's `RXBUF` read. -/
def cycleDraws (c : CycleIn) (s : State) : Nat :=
  match c.rxRead with
  | some i => (rxAnswer s i).2
  | none => s.draws

/-- The output wires: every read sees the state from before the cycle's event (R22). DESIGN CHOICE: in a reset cycle too a
read port answers the value from before the reset; R22 speaks of a cycle with an accepted event only, and R127 says
nothing of the read ports (log entry 8). -/
def cycleOut (c : CycleIn) (s : State) : CycleOut where
  evReady  := eventReady c s
  accepted := acceptedEvent c s
  shown    := s.outq.head?
  left     := leavingOutput c s
  regData  := c.regRead.map (readReg s)
  txData   := c.txRead.map (txByte s)
  rxData   := c.rxRead.map fun i => (rxAnswer s i).1

/-- One clock cycle. -/
def cycle (c : CycleIn) (s : State) : Host.Outcome (State × CycleOut) Fault Refusal :=
  match badRead c with
  | some r => .refused r
  | none =>
    andThen (cycleEdge c { s with draws := cycleDraws c s }) fun s1 =>
      andThen (cycleWrite c s1) fun s2 => .next (s2, cycleOut c s)

/-- A run of clock cycles with the output wires of each. -/
def runCycles : List CycleIn → State → Host.Outcome (State × List CycleOut) Fault Refusal
  | [], s => .next (s, [])
  | c :: rest, s =>
    andThen (cycle c s) fun r => andThen (runCycles rest r.1) fun q => .next (q.1, r.2 :: q.2)

/-- The operation-level inputs that one cycle carries out, in order: its reads, then its reset or accepted event, then
its write. -/
def cycleInputs (c : CycleIn) (s : State) : List Input :=
  (match c.regRead with | some k => [.readReg k] | none => []) ++
  (match c.txRead with | some i => [.readTx i] | none => []) ++
  (match c.rxRead with | some i => [.readRx i] | none => []) ++
  (if c.rst then [.rst] else match acceptedEvent c s with | some e => [.event e] | none => []) ++
  (match c.txWrite with | some (i, v) => [.writeTx i v] | none => [])

/-- The operation-level inputs that a run of cycles carries out. -/
def cyclesInputs : List CycleIn → State → List Input
  | [], _ => []
  | c :: rest, s =>
    cycleInputs c s ++
      match cycle c s with
      | .next r => cyclesInputs rest r.1
      | .fault _ => []
      | .refused _ => []

/-- The architectural part of a state: all of it but the output queue and the model's own port fields (R25: at the
operation level the queue "is not state"). -/
def arch (s : State) : State := { s with outq := [], inputs := [], reply := none }

/-- The outputs that left the block during a run of cycles, in order. -/
def leftOutputs (outs : List CycleOut) : List Output := outs.filterMap CycleOut.left

end Sys2Proof.Machine
end

