-- ==== Sys2Proof/Safety.lean ====
section
/-! DEFINITION. What the rules keep (10_state.md section 8, 41_sender.md section 3), when a run has ended (R140), and
what the host and the transport must respect (70_reset_and_hazards.md section 4). -/

namespace Sys2Proof.Machine

/-- Every byte below a bound has been written. -/
def Memory.writtenBelow (m : Memory) (bound : Nat) : Prop := ∀ a, a < bound → (Memory.read m a).isSome

/-- Every listed index exists (R30). -/
def Memory.inRange (m : Memory) : Prop := ∀ a, (Memory.read m a).isSome → a < Config.maxLen

/-- How many bytes of the input the frames below `TX_NEXT` carry. -/
def sentBytes (s : State) : Nat := min (Config.chunkSize * s.txNext.toNat) s.txLen.toNat

/-- What holds in `TX_WAIT`: the configuration that START checked (R107, R108), R28, R19 and that the frames sent so
far can be sent again. -/
structure SenderInv (s : State) : Prop where
  role    : s.cfgRole = 0
  config  : senderConfigOk s
  total   : s.txTotal.toNat = chunkCount s
  base    : s.txBase.toNat < s.txTotal.toNat
  next    : s.txNext.toNat = windowEnd s s.txBase.toNat
  timer   : s.timer.toNat < s.cfgT.toNat
  written : Memory.writtenBelow s.txbuf (sentBytes s)

/-- What holds in `RX_WAIT`: the configuration that START checked (R107, R108) and R19. -/
structure ReceiverInv (s : State) : Prop where
  role   : s.cfgRole = 1
  config : receiverConfigOk s
  timer  : s.timer.toNat < s.cfgTr.toNat

/-- The invariant of one instance. It rules out states no run reaches: a cause without `ERROR` (R21), index registers
outside R16, R18's bound, `TIMER` at 255 (R19), a buffer that is not in canonical form. -/
structure State.Inv (s : State) : Prop where
  txWf    : Memory.wf s.txbuf
  rxWf    : Memory.wf s.rxbuf
  txRange : Memory.inRange s.txbuf
  rxRange : Memory.inRange s.rxbuf
  cause   : s.cause = .none ↔ s.ctl ≠ .error
  rxLen   : s.rxLen.toNat ≤ Config.maxLen
  rxHeld  : Memory.writtenBelow s.rxbuf s.rxLen.toNat
  total   : s.txTotal.toNat ≤ ceilDiv Config.maxLen Config.chunkSize
  next    : s.txNext.toNat ≤ s.txTotal.toNat
  base    : s.txBase.toNat ≤ s.txTotal.toNat + 126
  timer   : s.timer.toNat ≤ 254
  sender  : s.ctl = .txWait → SenderInv s
  receiver : s.ctl = .rxWait → ReceiverInv s
  sent    : s.ctl = .txDone → s.txTotal.toNat ≤ s.txBase.toNat

/-! ### What the frames on the wire are, byte by byte -/

/-- The bytes of chunk `i` (R74), from `TXBUF[64*i]` to the chunk's end; a byte nothing has written counts as 0 here, and
a claim that uses this takes the bytes as written. -/
def chunkBytes (s : State) (i : Nat) : List Byte :=
  (List.range (min 64 (s.txLen.toNat - 64 * i))).map fun k => (Memory.read s.txbuf (64 * i + k)).getD 0

/-- Data frame `i` on the wire (R75, R49): `seq = i mod 256`, `ack = 0`, `dataOffset = 7`, `windowSize = 0`. -/
def wireDataFrame (s : State) (flag : Byte) (i : Nat) : List Byte :=
  [s.cfgSport, s.cfgDport, BitVec.ofNat 8 i, 0, 7, 0, flag] ++ chunkBytes s i

/-- The sends of the data frames of index in `[a, b)`, in ascending order (R76). -/
def wireSends (s : State) (flag : Byte) (a b : Nat) : List Output :=
  (List.range' a (b - a)).map fun i => .send (wireDataFrame s flag i)

/-- The ACK frame on the wire (R92, R49) with this `ack` byte. -/
def wireAckFrame (s : State) (ack : Byte) : List Byte := [s.cfgSport, s.cfgDport, 0, ack, 7, 0, 0]

/-- A RECV or UNPACK operand that is a frame: 7 to 71 bytes, as many as `ev_len` says (R53, R66). -/
def isFrameOperand (len : BitVec 7) (raw : List Byte) : Prop :=
  7 ≤ len.toNat ∧ len.toNat ≤ 71 ∧ raw.length = len.toNat

/-- An operand that decodes to Malformed, by its length (R68). -/
def isMalformedLength (len : BitVec 7) : Prop := 1 ≤ len.toNat ∧ len.toNat ≤ 6 ∨ 71 < len.toNat

/-- `dist = (a - (TX_BASE mod 256)) mod 256` of R77 over the integers, for the `ack` byte of a received frame. -/
def wireAckDistance (s : State) (raw : List Byte) : Nat :=
  ((((raw.getD 3 0).toNat : Int) - (s.txBase.toNat % 256 : Nat)) % 256).toNat

/-- The configuration START accepts in the sender role (R107). -/
def senderConfigLegal (s : State) : Prop :=
  1 ≤ s.cfgN.toNat ∧ s.cfgN.toNat ≤ 127 ∧ s.cfgT ≠ 0 ∧ s.txLen.toNat ≤ Config.maxLen

/-- Every byte of the frames of index in `[a, b)` has been written (R131). -/
def framesWritten (s : State) (a b : Nat) : Prop :=
  ∀ x, 64 * a ≤ x → x < min (64 * b) s.txLen.toNat → (Memory.read s.txbuf x).isSome

/-- The payloads a receiver accepts from frames arriving in this order, when it has accepted `n` frames before (R97,
R98): a frame counts iff its `seq` byte is the next index modulo 256. -/
def acceptedPayloads : Nat → List (List Byte) → List (List Byte)
  | _, [] => []
  | n, raw :: rest =>
    if (raw.getD 2 0).toNat = n % 256 then raw.drop 7 :: acceptedPayloads (n + 1) rest
    else acceptedPayloads n rest

/-- The frame a request delivers, if it is a RECV whose bytes decode to one (R66). -/
def deliveredFrame : Input → Option (List Byte)
  | .event e =>
    if e.code = 4 ∧ Config.headerSize ≤ e.len.toNat ∧ e.len.toNat ≤ Config.maxFrame then some (frameOperand e) else none
  | .writeTx _ _ => none
  | .readReg _ => none
  | .readTx _ => none
  | .readRx _ => none
  | .rst => none

/-- A request that opens no connection: neither a reset nor a START event. -/
def opensNothing : Input → Bool
  | .event e => e.code != 2
  | .writeTx _ _ => true
  | .readReg _ => true
  | .readTx _ => true
  | .readRx _ => true
  | .rst => false

/-- A request that is no write of `TXBUF`. -/
def writesNothing : Input → Bool
  | .event _ => true
  | .writeTx _ _ => false
  | .readReg _ => true
  | .readTx _ => true
  | .readRx _ => true
  | .rst => true

/-! ### The end of a run, and what the outside must respect -/

/-- A run of one instance has ended (R140). -/
def ended (s : State) : Bool := (done s || err s) && s.outq.isEmpty

/-- A run of one instance has ended well (R140). -/
def endedWell (s : State) : Bool := done s && s.outq.isEmpty

/-- The transport holds no frame still to deliver (R140). A close may be under way: R140 does not say "THAT THE PEER HAS
SEEN THE `Close`". -/
def framesDelivered (c : Connection) : Bool := !(c.toRcv ++ c.toSnd).any Packet.isFrame

/-- A run of a connection has ended well (R140): the sender in `TX_DONE`, the receiver in `RX_DONE`, so neither has
faulted, and no frame is still to deliver. -/
def connectionEndedWell (c : Connection) : Bool :=
  c.snd.ctl == .txDone && c.rcv.ctl == .rxDone && framesDelivered c

/-- The bytes a receiver has received, `RXBUF[0..RX_LEN)` (R18, R35). -/
def received (s : State) : Except Nat (List Byte) := Memory.readRange s.rxbuf 0 s.rxLen.toNat

/-- R133: an event that was on the port in a cycle at whose edge `ev_ready` was 0 is still there in the next cycle, every
field the same. A reset cycle is such a cycle (R132: `ev_ready = 1` only when `rst = 0`), so the host holds through it. -/
def holdsEvent (c c' : CycleIn) (s : State) : Prop := c.ev.isSome → eventReady c s = false → c'.ev = c.ev

/-- The state after a clock edge, before the cycle's host write (R127, R132): the reset; or, with the queue empty and an
event on the port, what the event's rule gives; or else the head of the queue leaves when `out_ready = 1`. -/
def afterEdge (c : CycleIn) (s u : State) : Prop :=
  (c.rst = true ∧ u = resetBlock s) ∨
  (c.rst = false ∧ s.outq = [] ∧ ∃ e, c.ev = some e ∧ acceptEvent e s = .next u) ∨
  (c.rst = false ∧ (s.outq ≠ [] ∨ c.ev = none) ∧ u = { s with outq := if c.outReady then s.outq.tail else s.outq })

/-- What a host may do at an instance in the middle of a connection: ticks of the timebase, NOP and the codec
operations. A RECV comes only from the transport (R136; `act` refuses any other), CFGWR and START are not issued (R135). -/
def quietEvent (e : Event) : Bool := e.code == 0 || e.code == 3 || e.code == 5 || e.code == 6

/-- The actions of a connection under way whose hosts respect R134 to R136: quiet events at either side and whatever
the transport does (R48). -/
def quietAction : Action → Bool
  | .atSender (.event e) => quietEvent e
  | .atReceiver (.event e) => quietEvent e
  | .atSender _ => false
  | .atReceiver _ => false
  | .deliverToReceiver => true
  | .deliverToSender => true
  | .dropToReceiver => true
  | .dropToSender => true

end Sys2Proof.Machine
end

