-- ==== Sys2Proof/Certificates/Slice0/Obligations.lean ====
section
/-! DEFINITION. The statements for the provers. An equation `exec i s = .next { s with … }` gives the whole next state,
so it is result, completion and frame at once: every register, buffer byte and port field it does not name is as before.
`outq` is the output queue: what a step emits is appended to it in order. -/

open Sys2Proof Sys2Proof.Machine

/-! ### Encoding and decoding -/

/-- In every context that selects its row, every well-formed operation is what its own image decodes to. The image is
the model's layout of the port (log entry 2), and which row of a shared code a context selects is log entry 4. -/
def Obligations.DecodeEncodeRoundTrip : Prop :=
  ∀ (sel : Selector) (i : Instr), i.wellFormed = true → i.rowHolds sel = true → decode sel (encode i) = .ok i

/-- Whatever image decodes, decodes to a well-formed operation whose row condition holds in the context and whose code is
the event's; and a well-formed operation whose row holds and that has the same encoding is that operation. A claim about
the model's image layout (log entry 2) and about which row an event of a shared code is labelled with, the states that
ignore it included (log entry 4): the spec numbers no byte of the port, and R57 selects rules, not rows. -/
def Obligations.DecodeGivesTheRowThatHolds : Prop :=
  ∀ (sel : Selector) (image : List Byte) (i : Instr), decode sel image = .ok i →
    i.wellFormed = true ∧ i.rowHolds sel = true ∧
    (∃ e, decodeImage image = .ok e ∧ i.code = e.code) ∧
    ∀ j : Instr, j.wellFormed = true → j.rowHolds sel = true → encode j = encode i → j = i

/-- R57's table, cell by cell: the rule an event runs, by its code, STATE and, for START, CFG_ROLE. -/
def Obligations.EventRunsTheTableEntry : Prop :=
  ∀ (e : Event) (s : State),
    (e.code = 0 → acceptEvent e s = .next s) ∧
    (e.code = 1 →
      (s.ctl.ready = true → acceptEvent e s =
        .next (match writeCfg s e.reg e.val with | some t => t | none => takeFault .illegalOp s)) ∧
      (connectionOpen s.ctl = true → acceptEvent e s = .next (takeFault .illegalOp s)) ∧
      (s.ctl = .error → acceptEvent e s = .next s)) ∧
    (e.code = 2 →
      (s.ctl.ready = true → s.cfgRole = 0 → senderConfigOk s = true → acceptEvent e s = openSender s) ∧
      (s.ctl.ready = true → s.cfgRole = 0 → senderConfigOk s = false →
        acceptEvent e s = .next (takeFault .invalidMode s)) ∧
      (s.ctl.ready = true → s.cfgRole = 1 → receiverConfigOk s = true → acceptEvent e s = openReceiver s) ∧
      (s.ctl.ready = true → s.cfgRole = 1 → receiverConfigOk s = false →
        acceptEvent e s = .next (takeFault .invalidMode s)) ∧
      (s.ctl.ready = true → s.cfgRole ≠ 0 → s.cfgRole ≠ 1 → acceptEvent e s = .next (takeFault .invalidMode s)) ∧
      (connectionOpen s.ctl = true → acceptEvent e s = .next (takeFault .illegalOp s)) ∧
      (s.ctl = .error → acceptEvent e s = .next s)) ∧
    (e.code = 3 →
      (s.ctl = .txWait → acceptEvent e s = senderTick s) ∧
      (s.ctl = .rxWait → acceptEvent e s = receiverTick s) ∧
      (connectionOpen s.ctl = false → acceptEvent e s = .next s)) ∧
    (e.code = 4 →
      (s.ctl = .txWait → acceptEvent e s = senderRecv e.len (frameOperand e) s) ∧
      (s.ctl = .rxWait → acceptEvent e s = receiverRecv e.len (frameOperand e) s) ∧
      (connectionOpen s.ctl = false → acceptEvent e s = .next s)) ∧
    (e.code = 5 → acceptEvent e s = .next (emit s [packResult e.len (headerOperand e) (payloadOperand e)])) ∧
    (e.code = 6 → acceptEvent e s = .next (emit s [unpackResult e.len (frameOperand e)])) ∧
    (7 ≤ e.code.toNat →
      (s.ctl ≠ .error → acceptEvent e s = .next (takeFault .illegalOp s)) ∧
      (s.ctl = .error → acceptEvent e s = .next s))

/-- Images that lay out the fields of R53, with the codes of R54, in the model's 78-byte layout (log entry 2) decode to
the operations they stand for. The spec gives wires and codes and no bytes: the layout, and that the bits of a byte that
stand for no wire are rejected, are log entry 2; that these events are labelled TX.START and RX.TICK is log entry 4. -/
def Obligations.WrittenImagesDecode : Prop :=
  decode Selector.reset ([0x01, 0x01, 0x04, 0x00, 0x00, 0x00, 0x00] ++ List.replicate 71 0) = .ok (.cfgwr 1 4) ∧
  decode Selector.reset ([0x02, 0, 0, 0, 0, 0, 0] ++ List.replicate 71 0) = .ok .txStart ∧
  decode { state := .rxWait, role := 1, startOk := true } ([0x03, 0, 0, 0, 0, 0, 0] ++ List.replicate 71 0) =
    .ok .rxTick ∧
  decode { state := .rxWait, role := 1, startOk := true }
    ([0x04, 0, 0, 0, 0, 0, 0x08] ++ [0, 0, 2, 0, 7, 0, 0, 0xA2] ++ List.replicate 63 0) =
    .ok (.rxRecv 8 [0, 0, 2, 0, 7, 0, 0, 0xA2]) ∧
  decode Selector.reset
    ([0x05, 0, 0, 0, 0, 0, 0x02] ++ [1, 2, 3, 4, 7, 0, 0xFF, 0xAA, 0xBB] ++ List.replicate 62 0) =
    .ok (.pack 2 { sp := 1, dp := 2, seq := 3, ack := 4, doff := 7, win := 0, rtx := 0xFF } [0xAA, 0xBB]) ∧
  decode Selector.reset ([0x09, 0, 0, 0, 0, 0, 0] ++ List.replicate 71 0) = .ok (.rsv8F 9) ∧
  decode Selector.reset ([0x12, 0, 0, 0, 0, 0, 0] ++ List.replicate 71 0) = .error .codeBits

/-- A step runs the decoded event: exec of it on the state from which the event has been taken and the outputs of the
step before have left (R25). With nothing asked, only those outputs leave. An event placed by `withFetchWord` is the
one the next step runs. The list of requests and the answer of a read port are the model's (log entry 3), and so are the
image and the row's label (log entries 2 and 4). -/
def Obligations.StepRunsTheDecodedEvent : Prop :=
  (∀ (s : State) (e : Event) (rest : List Input) (i : Instr), s.inputs = .event e :: rest →
    decode (selectorOf s) (encodeEvent e) = .ok i →
    step s = exec i { s with inputs := rest, outq := [], reply := none }) ∧
  (∀ s : State, s.inputs = [] → step s = .next { s with outq := [], reply := none }) ∧
  (∀ (s : State) (nbits w : Nat) (i : Instr), decode (selectorOf s) (imageOfWord nbits w) = .ok i →
    step (s.withFetchWord nbits w) = exec i { s with outq := [], reply := none })

/-- The rows of one `ev_code` are names of one event: well-formed operations with the same image do the same in every
state (R57: STATE, not the name, selects the rule; log entry 4). -/
def Obligations.RowsOfOneEventAgree : Prop :=
  ∀ (i j : Instr) (s : State), i.wellFormed = true → j.wellFormed = true → encode i = encode j → exec i s = exec j s

/-! ### The codec -/

/-- R64, R65: the packed bytes are the fields modulo 256 and the flag modulo 2, negative integers included, in wire
order, then the payload. -/
def Obligations.PackMasksTheHeader : Prop :=
  ∀ f : Frame,
    (packFrame f).length = 7 + f.payload.length ∧
    (packFrame f).drop 7 = f.payload ∧
    (((packFrame f).getD 0 0).toNat : Int) = f.sp % 256 ∧
    (((packFrame f).getD 1 0).toNat : Int) = f.dp % 256 ∧
    (((packFrame f).getD 2 0).toNat : Int) = f.seq % 256 ∧
    (((packFrame f).getD 3 0).toNat : Int) = f.ack % 256 ∧
    (((packFrame f).getD 4 0).toNat : Int) = f.doff % 256 ∧
    (((packFrame f).getD 5 0).toNat : Int) = f.win % 256 ∧
    (((packFrame f).getD 6 0).toNat : Int) = f.rtx % 2

/-- R66 to R69: the verdict is judged by the length; a frame's fields are its first seven bytes, its flag is bit 0 of
byte 6, its payload is the rest. -/
def Obligations.UnpackJudgesByLength : Prop :=
  ∀ (n : Nat) (raw : List Byte),
    (n = 0 → unpackFrame n raw = .noFrame) ∧
    (1 ≤ n → n ≤ 6 → unpackFrame n raw = .malformed) ∧
    (71 < n → unpackFrame n raw = .malformed) ∧
    (7 ≤ n → n ≤ 71 → raw.length = n →
      unpackFrame n raw = .frame
        { sp := (raw.getD 0 0).toNat, dp := (raw.getD 1 0).toNat, seq := (raw.getD 2 0).toNat,
          ack := (raw.getD 3 0).toNat, doff := (raw.getD 4 0).toNat, win := (raw.getD 5 0).toNat,
          rtx := ((raw.getD 6 0).toNat % 2 : Nat), payload := raw.drop 7 } ∧
      (raw.drop 7).length = n - 7)

/-- R70, both directions: unpacking a packed frame gives it back but for the flag's upper bits, and packing an unpacked
byte string gives it back but for bits 7:1 of byte 6. -/
def Obligations.UnpackInvertsPack : Prop :=
  (∀ f : Frame, 0 ≤ f.sp → f.sp < 256 → 0 ≤ f.dp → f.dp < 256 → 0 ≤ f.seq → f.seq < 256 → 0 ≤ f.ack → f.ack < 256 →
    0 ≤ f.doff → f.doff < 256 → 0 ≤ f.win → f.win < 256 → f.payload.length ≤ 64 →
    unpackFrame (packFrame f).length (packFrame f) = .frame { f with rtx := f.rtx % 2 }) ∧
  (∀ raw : List Byte, 7 ≤ raw.length → raw.length ≤ 71 →
    ∃ f, unpackFrame raw.length raw = .frame f ∧ packFrame f = raw.set 6 (raw.getD 6 0 &&& 1))

/-- R72, R71: PACK completes in every state, `ERROR` included, and its only effect is one Result: the header bytes with
the flag byte cut to its bit 0 and the payload, or BADLEN for a payload of more than 64 bytes. -/
def Obligations.PackEmitsOneResult : Prop :=
  ∀ (s : State) (len : BitVec 7) (h : Header) (payload : List Byte),
    (len.toNat ≤ 64 → payload.length = len.toNat →
      exec (.pack len h payload) s = .next { s with outq := s.outq ++
        [.result .frame ([h.sp, h.dp, h.seq, h.ack, h.doff, h.win, h.rtx &&& 1] ++ payload)] }) ∧
    (64 < len.toNat → exec (.pack len h payload) s = .next { s with outq := s.outq ++ [.result .badLen []] })

/-- R73, R71: UNPACK completes in every state and its only effect is one Result: NOFRAME, MALFORMED (MALF is not set) or
the bytes with byte 6 cut to its bit 0. -/
def Obligations.UnpackEmitsOneResult : Prop :=
  ∀ (s : State) (len : BitVec 7) (raw : List Byte),
    (len = 0 → exec (.unpack len raw) s = .next { s with outq := s.outq ++ [.result .noFrame []] }) ∧
    (isMalformedLength len →
      exec (.unpack len raw) s = .next { s with outq := s.outq ++ [.result .malformed []] }) ∧
    (isFrameOperand len raw → exec (.unpack len raw) s =
      .next { s with outq := s.outq ++ [.result .frame (raw.set 6 (raw.getD 6 0 &&& 1))] })

/-! ### Control -/

/-- R104: NOP completes in every state and changes nothing. -/
def Obligations.NopChangesNothing : Prop := ∀ s : State, exec .nop s = .next s

/-- R105, R106: with no connection open, CFGWR to an index up to 6 completes; the register then reads as the value
modulo 2 to its field's width and everything else is as before. Any other index faults and writes no register. While a
connection is open CFGWR faults and closes it; in `ERROR` it is ignored. -/
def Obligations.CfgwrWritesOneRegister : Prop :=
  ∀ (s : State) (k : BitVec 8) (v : Word),
    (s.ctl.ready = true → k.toNat ≤ 6 → ∃ t, exec (.cfgwr k v) s = .next t ∧
      (readReg t k).toNat = v.toNat % 2 ^ (if k = 0 then 2 else if k = 6 then 32 else 8) ∧
      (∀ j, j ≠ k → readReg t j = readReg s j) ∧
      t.txbuf = s.txbuf ∧ t.rxbuf = s.rxbuf ∧ t.outq = s.outq ∧ t.inputs = s.inputs ∧ t.reply = s.reply ∧
      t.draws = s.draws) ∧
    (s.ctl.ready = true → 6 < k.toNat →
      exec (.cfgwr k v) s = .next { s with ctl := .error, cause := .illegalOp }) ∧
    (connectionOpen s.ctl = true →
      exec (.cfgwr k v) s = .next { s with ctl := .error, cause := .illegalOp, outq := s.outq ++ [.close] }) ∧
    (s.ctl = .error → exec (.cfgwr k v) s = .next s)

/-- R78 through R107: with no connection open, role 0, a legal configuration and the burst's bytes written, START (as
START and as TX.START) sends the first `min(N, total)` frames with flag 0 and waits, or closes at once if there is
nothing to send. -/
def Obligations.StartOpensTheSender : Prop :=
  ∀ (s : State) (total n0 : Nat), s.ctl.ready = true → s.cfgRole = 0 → senderConfigLegal s →
    total = (s.txLen.toNat + 63) / 64 → n0 = min s.cfgN.toNat total → framesWritten s 0 n0 →
    exec .txStart s = .next { s with
      txTotal := BitVec.ofNat 32 total, txBase := 0, txNext := BitVec.ofNat 32 n0, timer := 0, malf := false,
      ctl := (if total = 0 then .txDone else .txWait),
      outq := s.outq ++ wireSends s 0 0 n0 ++ (if total = 0 then [.close] else []) } ∧
    exec .start s = exec .txStart s

/-- R93 through R107: with no connection open, role 1 and `CFG_TR` not 0, START (as START and as RX.START) opens a
receiver with nothing received and emits nothing. -/
def Obligations.StartOpensTheReceiver : Prop :=
  ∀ s : State, s.ctl.ready = true → s.cfgRole = 1 → s.cfgTr ≠ 0 →
    exec .rxStart s = .next { s with rxExp := 0, rxLen := 0, timer := 0, malf := false, ctl := .rxWait } ∧
    exec .start s = exec .rxStart s

/-- R107: a START whose configuration fails its check faults INVALID_MODE; no connection is open, so no Close is
emitted. -/
def Obligations.StartRejectsABadConfiguration : Prop :=
  ∀ s : State, s.ctl.ready = true →
    (s.cfgRole = 0 ∧ ¬ senderConfigLegal s ∨ s.cfgRole = 1 ∧ s.cfgTr = 0 ∨ s.cfgRole = 2 ∨ s.cfgRole = 3) →
    exec .start s = .next { s with ctl := .error, cause := .invalidMode }

/-- R108: START and CFGWR while a connection is open fault ILLEGAL_OP and close it, so no operation changes the
configuration or the role while a connection is open. -/
def Obligations.ConfigurationIsConstantWhileOpen : Prop :=
  (∀ (s : State) (i : Instr), connectionOpen s.ctl = true →
    (i = .start ∨ i = .txStart ∨ i = .rxStart ∨ ∃ k v, i = .cfgwr k v) →
    exec i s = .next { s with ctl := .error, cause := .illegalOp, outq := s.outq ++ [.close] }) ∧
  (∀ (s t : State) (i : Instr), connectionOpen s.ctl = true → exec i s = .next t →
    t.cfgRole = s.cfgRole ∧ t.cfgN = s.cfgN ∧ t.cfgT = s.cfgT ∧ t.cfgTr = s.cfgTr ∧ t.cfgSport = s.cfgSport ∧
    t.cfgDport = s.cfgDport ∧ t.txLen = s.txLen)

/-- R109: a reserved code faults ILLEGAL_OP in every state but `ERROR`, with one Close if a connection was open, and is
ignored in `ERROR`. -/
def Obligations.ReservedCodesFault : Prop :=
  ∀ (s : State) (i : Instr), (i = .rsv7 ∨ ∃ code, i = .rsv8F code) →
    (s.ctl ≠ .error → exec i s = .next { s with
      ctl := .error, cause := .illegalOp,
      outq := s.outq ++ (if s.ctl = .txWait ∨ s.ctl = .rxWait then [.close] else []) }) ∧
    (s.ctl = .error → exec i s = .next s)

/-- R110: TICK and RECV in `IDLE`, `TX_DONE` or `RX_DONE` change nothing and emit nothing. -/
def Obligations.NoConnectionIgnoresTickAndRecv : Prop :=
  ∀ (s : State) (i : Instr), (s.ctl = .idle ∨ s.ctl = .txDone ∨ s.ctl = .rxDone) →
    (i = .txTick ∨ i = .rxTick ∨ (∃ len raw, i = .txRecv len raw) ∨ ∃ len raw, i = .rxRecv len raw) →
    exec i s = .next s

/-- R111, R117: in `ERROR` every operation but PACK and UNPACK changes nothing, those two only emit their Result, so no
event leaves `ERROR` and `CAUSE` keeps its code; no request of the host leaves it either; a reset does, to `IDLE` with
`CAUSE` 0. -/
def Obligations.OnlyResetLeavesError : Prop :=
  (∀ (s : State) (i : Instr), s.ctl = .error →
    (exec i s = .next s ∧ (∀ len h p, i ≠ .pack len h p) ∧ ∀ len raw, i ≠ .unpack len raw) ∨
    ((∃ len h p, i = .pack len h p) ∨ ∃ len raw, i = .unpack len raw) ∧
      ∃ code bytes, exec i s = .next { s with outq := s.outq ++ [.result code bytes] }) ∧
  (∀ (s t : State) (a : Input), s.ctl = .error → a ≠ .rst → applyInput a s = .next t →
    t.ctl = .error ∧ t.cause = s.cause) ∧
  (∀ s : State, s.ctl = .error → ∃ t, applyInput .rst s = .next t ∧ t.ctl = .idle ∧ t.cause = .none)

/-! ### The sender -/

/-- R79, R80: a TICK in `TX_WAIT` counts; when the count reaches `CFG_T` it restarts the wait and sends every outstanding
frame again with flag 1, and no other register changes. -/
def Obligations.SenderTickCountsAndTimesOut : Prop :=
  ∀ (s : State) (last : Nat), s.ctl = .txWait →
    last = min (s.txBase.toNat + s.cfgN.toNat) s.txTotal.toNat →
    (s.timer.toNat + 1 < s.cfgT.toNat → exec .txTick s = .next { s with timer := s.timer + 1 }) ∧
    (s.cfgT.toNat ≤ s.timer.toNat + 1 → framesWritten s s.txBase.toNat last →
      exec .txTick s = .next { s with timer := 0, outq := s.outq ++ wireSends s 1 s.txBase.toNat last })

/-- R85: a frame whose ACK is at distance `N` or more from the base changes nothing but `TIMER`. -/
def Obligations.SenderIgnoresAnInvalidAck : Prop :=
  ∀ (s : State) (len : BitVec 7) (raw : List Byte), s.ctl = .txWait → isFrameOperand len raw →
    s.cfgN.toNat ≤ wireAckDistance s raw → exec (.txRecv len raw) s = .next { s with timer := 0 }

/-- R84 with R82: a valid ACK that does not complete the transfer advances the base past the acknowledged frame, sends
with flag 0 the frames that entered the window, and moves `TX_NEXT` to the window's end if that is larger. -/
def Obligations.SenderFillsTheWindowOnAValidAck : Prop :=
  ∀ (s : State) (len : BitVec 7) (raw : List Byte) (base' last : Nat), s.ctl = .txWait → isFrameOperand len raw →
    wireAckDistance s raw < s.cfgN.toNat → base' = s.txBase.toNat + wireAckDistance s raw + 1 →
    base' < s.txTotal.toNat → last = min (base' + s.cfgN.toNat) s.txTotal.toNat →
    framesWritten s s.txNext.toNat last →
    exec (.txRecv len raw) s = .next { s with
      timer := 0, txBase := BitVec.ofNat 32 base', txNext := BitVec.ofNat 32 (max s.txNext.toNat last),
      outq := s.outq ++ wireSends s 0 s.txNext.toNat last }

/-- R82, R83, R89: a valid ACK that brings the base to `TX_TOTAL` or past it completes the transfer: `TX_DONE` and one
Close, no frame. An ACK that names an index at or past `TX_TOTAL` is no exception. -/
def Obligations.SenderCompletesOnTheLastAck : Prop :=
  ∀ (s : State) (len : BitVec 7) (raw : List Byte) (base' : Nat), s.ctl = .txWait → isFrameOperand len raw →
    wireAckDistance s raw < s.cfgN.toNat → base' = s.txBase.toNat + wireAckDistance s raw + 1 →
    s.txTotal.toNat ≤ base' →
    exec (.txRecv len raw) s = .next { s with
      timer := 0, txBase := BitVec.ofNat 32 base', ctl := .txDone, outq := s.outq ++ [.close] }

/-- R86, R101: a RECV whose bytes are malformed sets MALF in either wait state and changes nothing else. -/
def Obligations.MalformedFramesOnlySetMalf : Prop :=
  ∀ (s : State) (len : BitVec 7) (raw : List Byte), isMalformedLength len →
    (s.ctl = .txWait → exec (.txRecv len raw) s = .next { s with malf := true }) ∧
    (s.ctl = .rxWait → exec (.rxRecv len raw) s = .next { s with malf := true })

/-- R87: an empty frame in `TX_WAIT` faults PEER_CLOSED and closes the connection. -/
def Obligations.SenderFaultsOnPeerClose : Prop :=
  ∀ (s : State) (raw : List Byte), s.ctl = .txWait →
    exec (.txRecv 0 raw) s =
      .next { s with ctl := .error, cause := .peerClosed, outq := s.outq ++ [.close] }

/-- R91: with no ACK ever arriving, every `T` ticks the outstanding window is sent again, as often as one likes, and the
sender never leaves `TX_WAIT` nor changes any other register. -/
def Obligations.SenderRetransmitsWithoutLimit : Prop :=
  ∀ (s : State) (last k : Nat), s.ctl = .txWait → s.timer = 0 → s.cfgT ≠ 0 →
    last = min (s.txBase.toNat + s.cfgN.toNat) s.txTotal.toNat → framesWritten s s.txBase.toNat last →
    ∃ t os, runInputs (List.replicate (k * s.cfgT.toNat) (.event (Event.plain 3))) s = .next (t, os) ∧
      arch t = arch s ∧ os = (List.replicate k (wireSends s 1 s.txBase.toNat last)).flatten

/-! ### The receiver -/

/-- R94: a TICK in `RX_WAIT` counts, and restarts the wait when the count reaches `CFG_TR`; nothing else changes and
nothing is emitted. -/
def Obligations.ReceiverTickOnlyCounts : Prop :=
  ∀ s : State, s.ctl = .rxWait →
    exec .rxTick s = .next { s with timer := if s.cfgTr.toNat ≤ s.timer.toNat + 1 then 0 else s.timer + 1 }

/-- R97: the expected frame is accepted: its payload stands at `RX_LEN`, every other `RXBUF` byte is as before, `RX_EXP`
is the next value modulo 256, and the ACK carries the frame's own `seq`. -/
def Obligations.ReceiverAcceptsTheExpectedFrame : Prop :=
  ∀ (s : State) (len : BitVec 7) (raw : List Byte), s.ctl = .rxWait → isFrameOperand len raw →
    raw.getD 2 0 = s.rxExp → s.rxLen.toNat + (len.toNat - 7) ≤ Config.maxLen →
    ∃ t, exec (.rxRecv len raw) s = .next t ∧
      t.rxExp.toNat = (s.rxExp.toNat + 1) % 256 ∧
      t.rxLen.toNat = s.rxLen.toNat + (len.toNat - 7) ∧
      (∀ a, Memory.read t.rxbuf a =
        if s.rxLen.toNat ≤ a ∧ a < t.rxLen.toNat then raw[7 + (a - s.rxLen.toNat)]? else Memory.read s.rxbuf a) ∧
      t = { s with
        timer := 0, rxExp := t.rxExp, rxLen := t.rxLen, rxbuf := t.rxbuf,
        outq := s.outq ++ [.send (wireAckFrame s (raw.getD 2 0))] }

/-- R98: any other decoded frame is discarded: `RX_EXP`, `RX_LEN` and `RXBUF` keep their values, it is not an error, and
the last ACK is sent again. -/
def Obligations.ReceiverDiscardsAnyOtherFrame : Prop :=
  ∀ (s : State) (len : BitVec 7) (raw : List Byte), s.ctl = .rxWait → isFrameOperand len raw →
    raw.getD 2 0 ≠ s.rxExp →
    exec (.rxRecv len raw) s =
      .next { s with timer := 0, outq := s.outq ++ [.send (wireAckFrame s (s.rxExp - 1))] }

/-- R99: after a decoded frame, accepted or discarded, exactly one frame is sent, the ACK of `(RX_EXP' - 1) mod 256`;
after a malformed or empty one no ACK is sent. -/
def Obligations.ReceiverAcknowledgesEveryFrame : Prop :=
  ∀ (s t : State) (len : BitVec 7) (raw : List Byte), s.ctl = .rxWait → exec (.rxRecv len raw) s = .next t →
    (isFrameOperand len raw → t.ctl = .rxWait →
      ∃ ack, t.outq = s.outq ++ [.send (wireAckFrame s ack)] ∧ ack.toNat = (t.rxExp.toNat + 255) % 256) ∧
    (isMalformedLength len ∨ len = 0 → ∀ bytes, .send bytes ∈ t.outq → .send bytes ∈ s.outq)

/-- R102: an expected frame whose payload would pass `MAX_LEN` faults RX_OVERFLOW: nothing is appended, no ACK is sent,
and the connection is closed. -/
def Obligations.ReceiverFaultsOnOverflow : Prop :=
  ∀ (s : State) (len : BitVec 7) (raw : List Byte), s.ctl = .rxWait → isFrameOperand len raw →
    raw.getD 2 0 = s.rxExp → Config.maxLen < s.rxLen.toNat + (len.toNat - 7) →
    exec (.rxRecv len raw) s =
      .next { s with ctl := .error, cause := .rxOverflow, outq := s.outq ++ [.close] }

/-- R100: an empty frame in `RX_WAIT` ends the connection: `RX_DONE` and one Close, no ACK. -/
def Obligations.ReceiverEndsOnPeerClose : Prop :=
  ∀ (s : State) (raw : List Byte), s.ctl = .rxWait →
    exec (.rxRecv 0 raw) s = .next { s with ctl := .rxDone, outq := s.outq ++ [.close] }

/-- R103, R29: from a fresh receiver, whatever is asked of it and whatever frames arrive in whatever order, as long as it
is in `RX_WAIT` and no START or reset came, `RXBUF[0..RX_LEN)` is the concatenation of the accepted payloads in
acceptance order and `RX_EXP` counts them modulo 256. Frames that fit are all taken, one ACK each. -/
def Obligations.ReceiverAssemblesInOrder : Prop :=
  (∀ (s t : State) (as : List Input) (os : List Output), s.ctl = .rxWait → s.rxExp = 0 → s.rxLen = 0 →
    (∀ a ∈ as, opensNothing a = true) → runInputs as s = .next (t, os) → t.ctl = .rxWait →
    received t = .ok (acceptedPayloads 0 (as.filterMap deliveredFrame)).flatten ∧
    t.rxLen.toNat = (acceptedPayloads 0 (as.filterMap deliveredFrame)).flatten.length ∧
    t.rxExp.toNat = (acceptedPayloads 0 (as.filterMap deliveredFrame)).length % 256) ∧
  (∀ (s : State) (frames : List (List Byte)), s.ctl = .rxWait → s.rxExp = 0 → s.rxLen = 0 →
    (∀ f ∈ frames, 7 ≤ f.length ∧ f.length ≤ 71) →
    (acceptedPayloads 0 frames).flatten.length ≤ Config.maxLen →
    ∃ t os, runInputs (frames.map fun f => .event (recvBytes f)) s = .next (t, os) ∧
      t.ctl = .rxWait ∧ os.length = frames.length)

/-! ### Faults, status and the register map -/

/-- R114, R115: whatever operation takes a block into `ERROR`, its whole effect is the fault entry: CAUSE and STATE are
written, one Close is emitted iff a connection was open, and every other register and byte is as before. -/
def Obligations.FaultEntryIsPrecise : Prop :=
  ∀ (s t : State) (i : Instr), s.ctl ≠ .error → exec i s = .next t → t.ctl = .error →
    ∃ c, c ≠ .none ∧ t = { s with
      ctl := .error, cause := c,
      outq := s.outq ++ (if s.ctl = .txWait ∨ s.ctl = .rxWait then [.close] else []) }

/-- R112: which event raises which cause, and under which condition. -/
def Obligations.CausesNameTheirEvents : Prop :=
  ∀ (s t : State) (i : Instr), i.wellFormed = true → s.ctl ≠ .error → exec i s = .next t → t.ctl = .error →
    (t.cause = .invalidMode ↔ i.code = 2 ∧ s.ctl.ready = true) ∧
    (t.cause = .illegalOp ↔ 7 ≤ i.code.toNat ∨ (i.code = 1 ∨ i.code = 2) ∧ connectionOpen s.ctl = true ∨
      i.code = 1 ∧ s.ctl.ready = true) ∧
    (t.cause = .peerClosed ↔ i.code = 4 ∧ s.ctl = .txWait) ∧
    (t.cause = .rxOverflow ↔ i.code = 4 ∧ s.ctl = .rxWait) ∧
    (i.code = 2 → s.ctl.ready = true → startOk s = false) ∧
    (∀ k v, i = .cfgwr k v → s.ctl.ready = true → 6 < k.toNat) ∧
    (∀ len raw, (i = .txRecv len raw ∨ i = .rxRecv len raw) → s.ctl = .txWait → len = 0) ∧
    (∀ len raw, (i = .txRecv len raw ∨ i = .rxRecv len raw) → s.ctl = .rxWait →
      isFrameOperand len raw ∧ raw.getD 2 0 = s.rxExp ∧ Config.maxLen < s.rxLen.toNat + (len.toNat - 7))

/-- R20: MALF is set only by a malformed RECV in a wait state and cleared only by a START that does not fault or by a
reset. -/
def Obligations.MalfIsSticky : Prop :=
  (∀ (s t : State) (i : Instr), i.wellFormed = true → exec i s = .next t → t.malf ≠ s.malf →
    (t.malf = true ∧ connectionOpen s.ctl = true ∧
      ∃ len raw, (i = .txRecv len raw ∨ i = .rxRecv len raw) ∧ isMalformedLength len) ∨
    (t.malf = false ∧ i.code = 2 ∧ s.ctl.ready = true ∧ t.ctl ≠ .error)) ∧
  (∀ (s t : State) (a : Input), (∀ e, a ≠ .event e) → applyInput a s = .next t → t.malf ≠ s.malf →
    a = .rst ∧ t.malf = false)

/-- R15, R8, R112: the fields of STATUS as the read port shows them, with their codes; bits 31:8 read 0. -/
def Obligations.StatusShowsItsFields : Prop :=
  ∀ s : State,
    (readReg s 8).toNat =
      (match s.ctl with | .idle => 0 | .txWait => 1 | .txDone => 2 | .rxWait => 3 | .rxDone => 4 | .error => 7) +
      8 * (if s.malf then 1 else 0) +
      16 * (match s.cause with
        | .none => 0 | .invalidMode => 1 | .illegalOp => 2 | .peerClosed => 3 | .rxOverflow => 4)

/-- R22, R7: the register read port answers each register at its index and 0 at every reserved or unmapped one, changes
nothing of the block, and in a cycle with `rst = 0` answers the value from before the cycle's edge, so from before the
event that it accepts. -/
def Obligations.RegisterReadPort : Prop :=
  (∀ s : State,
    (readReg s 0x00).toNat = s.cfgRole.toNat ∧ (readReg s 0x01).toNat = s.cfgN.toNat ∧
    (readReg s 0x02).toNat = s.cfgT.toNat ∧ (readReg s 0x03).toNat = s.cfgTr.toNat ∧
    (readReg s 0x04).toNat = s.cfgSport.toNat ∧ (readReg s 0x05).toNat = s.cfgDport.toNat ∧
    readReg s 0x06 = s.txLen ∧ readReg s 0x08 = statusWord s ∧ readReg s 0x09 = s.txBase ∧ readReg s 0x0A = s.txNext ∧
    readReg s 0x0B = s.txTotal ∧ (readReg s 0x0C).toNat = s.rxExp.toNat ∧ readReg s 0x0D = s.rxLen ∧
    (readReg s 0x0E).toNat = s.timer.toNat ∧
    ∀ k : BitVec 8, (k = 0x07 ∨ 0x0F ≤ k.toNat) → readReg s k = 0) ∧
  (∀ (s : State) (k : BitVec 8), applyInput (.readReg k) s = .next { s with reply := some (.word (readReg s k)) }) ∧
  (∀ (s t : State) (c : CycleIn) (o : CycleOut) (k : BitVec 8), c.rst = false → c.regRead = some k →
    cycle c s = .next (t, o) → o.regData = some (readReg s k))

/-- R116: the level outputs follow STATE as the read port shows it. -/
def Obligations.LevelOutputsFollowState : Prop :=
  ∀ s : State,
    (busy s = true ↔ (readReg s 8).toNat % 8 = 1 ∨ (readReg s 8).toNat % 8 = 3) ∧
    (done s = true ↔ (readReg s 8).toNat % 8 = 2 ∨ (readReg s 8).toNat % 8 = 4) ∧
    (err s = true ↔ (readReg s 8).toNat % 8 = 7)

/-- R27, R128: a reset gives every register its reset value, keeps both buffers, empties the output queue and emits
nothing, whatever the state. -/
def Obligations.ResetGivesTheResetValues : Prop :=
  ∀ s : State, ∃ t, applyInput .rst s = .next t ∧ t.outq = [] ∧ t.txbuf = s.txbuf ∧ t.rxbuf = s.rxbuf ∧
    ∀ k : BitVec 8, readReg t k = if k = 1 then 8 else if k = 2 ∨ k = 3 then 10 else 0

/-! ### The buffers and the host's ports -/

/-- R33, R134, R31: a host write of `TXBUF` writes that byte and nothing else; it is refused below `TX_LEN` in
`TX_WAIT` and at an index that does not exist. -/
def Obligations.HostWritesOneTxbufByte : Prop :=
  ∀ (s : State) (i : Nat) (v : Byte),
    (i < Config.maxLen → ¬ (s.ctl = .txWait ∧ i < s.txLen.toNat) →
      ∃ t, applyInput (.writeTx i v) s = .next t ∧ t = { s with txbuf := t.txbuf } ∧
        ∀ a, Memory.read t.txbuf a = if a = i then some v else Memory.read s.txbuf a) ∧
    (i < Config.maxLen → s.ctl = .txWait → i < s.txLen.toNat →
      applyInput (.writeTx i v) s = .refused (.txWriteInTxWait i)) ∧
    (Config.maxLen ≤ i → applyInput (.writeTx i v) s = .refused (.txIndex i))

/-- R43, R35, R31: a read of any buffer index that exists is answered; a read of any of the three ports changes nothing of
the block; it answers the register, the `TXBUF` byte written last, the `RXBUF` byte received below `RX_LEN`; a `TXBUF`
byte, even one nothing has written, answers the same again after whatever happens short of a write; an index that does
not exist is not answered. -/
def Obligations.HostReadsHaveNoEffect : Prop :=
  (∀ (s : State) (i : Nat), i < Config.maxLen →
    (∃ t v, applyInput (.readTx i) s = .next t ∧ t.reply = some (.byte v)) ∧
    ∃ t v, applyInput (.readRx i) s = .next t ∧ t.reply = some (.byte v)) ∧
  (∀ (s t : State) (a : Input), (∃ k, a = .readReg k) ∨ (∃ i, a = .readTx i) ∨ (∃ i, a = .readRx i) →
    applyInput a s = .next t →
    { t with reply := s.reply, draws := s.draws } = s ∧
    (∀ i v, a = .readTx i → Memory.read s.txbuf i = some v → t.reply = some (.byte v)) ∧
    (∀ i v, a = .readRx i → i < s.rxLen.toNat → Memory.read s.rxbuf i = some v → t.reply = some (.byte v)) ∧
    (∀ k, a = .readReg k → t.reply = some (.word (readReg s k))) ∧
    (∀ i as t' os u, a = .readTx i → (∀ b ∈ as, writesNothing b = true) → runInputs as t = .next (t', os) →
      applyInput a t' = .next u → u.reply = t.reply) ∧
    (∀ i, a = .readTx i ∨ a = .readRx i → i < Config.maxLen))

/-- R32: no operation writes `TXBUF`, and the only way an operation stops is the model fault of R36: it reads a `TXBUF`
byte below `TX_LEN` that nothing has written. -/
def Obligations.OperationsStopOnlyOnAnUnwrittenByte : Prop :=
  (∀ (s t : State) (i : Instr), exec i s = .next t → t.txbuf = s.txbuf) ∧
  (∀ (s : State) (i : Instr) (f : Fault), exec i s = .fault f →
    ∃ a, f = .unwrittenTxByte a ∧ a < s.txLen.toNat ∧ Memory.read s.txbuf a = none) ∧
  (∀ (s : State) (i : Instr) (r : Refusal), exec i s ≠ .refused r)

/-- R36, R131: a sender rule that would send a frame with a `TXBUF` byte nothing has written stops the model, at an
unwritten byte no later than that one: START's burst, a timeout and the fill after an ACK. It is a fault of the model,
not of the hardware. -/
def Obligations.SenderStopsAtAnUnwrittenByte : Prop :=
  ∀ (s : State) (x : Nat), x < s.txLen.toNat → Memory.read s.txbuf x = none →
    (s.ctl.ready = true → s.cfgRole = 0 → senderConfigLegal s →
      x < 64 * s.cfgN.toNat →
      ∃ a, a ≤ x ∧ Memory.read s.txbuf a = none ∧ exec .txStart s = .fault (.unwrittenTxByte a)) ∧
    (s.ctl = .txWait → s.cfgT.toNat ≤ s.timer.toNat + 1 → 64 * s.txBase.toNat ≤ x →
      x < 64 * min (s.txBase.toNat + s.cfgN.toNat) s.txTotal.toNat →
      ∃ a, a ≤ x ∧ Memory.read s.txbuf a = none ∧ exec .txTick s = .fault (.unwrittenTxByte a)) ∧
    (∀ len raw base', s.ctl = .txWait → isFrameOperand len raw → wireAckDistance s raw < s.cfgN.toNat →
      base' = s.txBase.toNat + wireAckDistance s raw + 1 → base' < s.txTotal.toNat → 64 * s.txNext.toNat ≤ x →
      x < 64 * min (base' + s.cfgN.toNat) s.txTotal.toNat →
      ∃ a, a ≤ x ∧ Memory.read s.txbuf a = none ∧ exec (.txRecv len raw) s = .fault (.unwrittenTxByte a))

/-- R34, R18, R137: whatever happens in `RX_WAIT` short of a reset, an operation or a request of the host, the bytes
below `RX_LEN` are final, `RX_LEN` does not shrink and no byte past the new `RX_LEN` changes; outside `RX_WAIT` nothing,
a reset included, writes `RXBUF`. -/
def Obligations.ReceiverOnlyAppends : Prop :=
  (∀ (s t : State), s.ctl = .rxWait →
    ((∃ i, exec i s = .next t) ∨ ∃ a, a ≠ .rst ∧ applyInput a s = .next t) →
    s.rxLen.toNat ≤ t.rxLen.toNat ∧ ∀ a, a < s.rxLen.toNat ∨ t.rxLen.toNat ≤ a →
      Memory.read t.rxbuf a = Memory.read s.rxbuf a) ∧
  (∀ (s t : State), s.ctl ≠ .rxWait → ((∃ i, exec i s = .next t) ∨ ∃ a, applyInput a s = .next t) →
    t.rxbuf = s.rxbuf)

/-- R24, R23: in `TX_WAIT` no operation touches the receiver's session registers and in `RX_WAIT` none touches the
sender's; outside a wait state only START writes a session register. -/
def Obligations.RolesKeepApart : Prop :=
  (∀ (s t : State) (i : Instr), s.ctl = .txWait → exec i s = .next t → t.rxExp = s.rxExp ∧ t.rxLen = s.rxLen) ∧
  (∀ (s t : State) (i : Instr), s.ctl = .rxWait → exec i s = .next t →
    t.txBase = s.txBase ∧ t.txNext = s.txNext ∧ t.txTotal = s.txTotal) ∧
  (∀ (s t : State) (i : Instr), connectionOpen s.ctl = false → i.code ≠ 2 → exec i s = .next t →
    t.txBase = s.txBase ∧ t.txNext = s.txNext ∧ t.txTotal = s.txTotal ∧ t.rxExp = s.rxExp ∧ t.rxLen = s.rxLen ∧
    t.timer = s.timer ∧ t.malf = s.malf)

/-! ### Invariants -/

/-- The state after reset meets the invariant of one instance. -/
def Obligations.ResetMeetsTheInvariant : Prop := State.reset.Inv

/-- Every step keeps the invariant of one instance (R16, R19, R21, R28, R88 and the canonical form of the buffers), from
every state that meets it and whatever the outside asks. -/
def Obligations.StepKeepsTheInvariant : Prop := ∀ s t : State, s.Inv → step s = .next t → t.Inv

/-- In a state that meets the invariant a TICK always completes: the frames of the outstanding window have been sent
before, so their bytes are written. -/
def Obligations.TicksNeverStop : Prop :=
  ∀ s : State, s.Inv → (∃ t, exec .txTick s = .next t) ∧ ∃ t, exec .rxTick s = .next t

/-- R28: after any run of requests and events from reset, in `TX_WAIT` the window is exactly
`TX_NEXT = min(TX_BASE + CFG_N, TX_TOTAL)` with `TX_BASE < TX_TOTAL`. -/
def Obligations.ReachableWindowIsExact : Prop :=
  ∀ (as : List Input) (t : State) (os : List Output), runInputs as State.reset = .next (t, os) → t.ctl = .txWait →
    t.txNext.toNat = min (t.txBase.toNat + t.cfgN.toNat) t.txTotal.toNat ∧ t.txBase.toNat < t.txTotal.toNat

/-- R132, R139, R59, R60: an accepted event emits at most 127 outputs; a Close or a Result is never emitted with
anything else; every frame sent has 7 to 71 bytes, the bytes of a Result fit the port's 71, and only a FRAME has any. -/
def Obligations.OutputsFitThePort : Prop :=
  ∀ (s t : State) (e : Event), s.Inv → s.outq = [] → acceptEvent e s = .next t →
    t.outq.length ≤ 127 ∧ (.close ∈ t.outq → t.outq = [.close]) ∧
    (∀ bytes, .send bytes ∈ t.outq → 7 ≤ bytes.length ∧ bytes.length ≤ 71) ∧
    ∀ c bytes, .result c bytes ∈ t.outq →
      t.outq = [.result c bytes] ∧ bytes.length ≤ 71 ∧ (c ≠ .frame → bytes = [])

/-- R59, R60: what the output port shows for a Send, a Close and a Result: its kind, its code, its length and its bytes
with zeros after them. The codes are FRAME 0, NOFRAME 1, MALFORMED 2 and BADLEN 3. -/
def Obligations.OutputPortShowsTheFrame : Prop :=
  (∀ bytes : List Byte, bytes.length ≤ 71 →
    (outputFields (.send bytes)).kind = 0 ∧ (outputFields (.send bytes)).code = 0 ∧
    (outputFields (.send bytes)).len.toNat = bytes.length ∧
    (outputFields (.send bytes)).data = bytes ++ List.replicate (71 - bytes.length) 0) ∧
  (outputFields .close).kind = 1 ∧ (outputFields .close).code = 0 ∧ (outputFields .close).len = 0 ∧
  (outputFields .close).data = List.replicate 71 0 ∧
  ∀ (c : ResultCode) (bytes : List Byte), bytes.length ≤ 71 →
    (outputFields (.result c bytes)).kind = 2 ∧
    (outputFields (.result c bytes)).code = (match c with | .frame => 0 | .noFrame => 1 | .malformed => 2 | .badLen => 3) ∧
    (outputFields (.result c bytes)).len.toNat = bytes.length ∧
    (outputFields (.result c bytes)).data = bytes ++ List.replicate (71 - bytes.length) 0

/-! ### The cycle protocol, boot and the connection -/

/-- R132, R25, R45: every run of clock cycles does to the block what the operation-level run of its requests and accepted
events does; and without a reset, what left on the output port and what is still queued is, in order, what was queued
before and what those operations emitted. The order of what happens inside one cycle is log entry 8. -/
def Obligations.CyclesRefineOperations : Prop :=
  ∀ (cs : List CycleIn) (s t : State) (outs : List CycleOut), runCycles cs s = .next (t, outs) →
    ∃ t' os, runInputs (cyclesInputs cs s) s = .next (t', os) ∧ arch t' = arch t ∧
      ((∀ c ∈ cs, c.rst = false) → leftOutputs outs ++ t.outq = s.outq ++ os)

/-- R129, R78: from any state, the sender's boot with an input that fits and a legal configuration ends in `TX_WAIT`
(`TX_DONE` for an empty input) with the first `min(N, total)` chunks of the input sent, each in a frame with flag 0. -/
def Obligations.SenderBootSendsTheFirstWindow : Prop :=
  ∀ (s : State) (input : List Byte) (n t sport dport : Byte) (total : Nat), 1 ≤ n.toNat → n.toNat ≤ 127 → t ≠ 0 →
    input.length ≤ Config.maxLen → total = (input.length + 63) / 64 →
    ∃ u os, runInputs (senderBoot input n t sport dport) s = .next (u, os) ∧
      u.ctl = (if input = [] then .txDone else .txWait) ∧ u.txBase = 0 ∧ u.txTotal.toNat = total ∧
      u.txNext.toNat = min n.toNat total ∧ u.txLen.toNat = input.length ∧ u.cfgN = n ∧ u.cfgT = t ∧
      (∀ a, a < input.length → Memory.read u.txbuf a = input[a]?) ∧
      os = ((List.range (min n.toNat total)).map fun i =>
          Output.send ([sport, dport, BitVec.ofNat 8 i, 0, 7, 0, 0] ++ (input.drop (64 * i)).take 64)) ++
        (if input = [] then [.close] else [])

/-- R130, R93: from any state, the receiver's boot ends in `RX_WAIT` with nothing received and nothing emitted. -/
def Obligations.ReceiverBootWaitsForFrames : Prop :=
  ∀ (s : State) (tr sport dport : Byte), tr ≠ 0 →
    ∃ u, runInputs (receiverBoot tr sport dport) s = .next (u, []) ∧
      u.ctl = .rxWait ∧ u.rxExp = 0 ∧ u.rxLen = 0 ∧ u.timer = 0 ∧ u.malf = false ∧ u.cause = .none ∧ u.cfgRole = 1 ∧
      u.cfgTr = tr ∧ u.cfgSport = sport ∧ u.cfgDport = dport ∧ u.txbuf = s.txbuf ∧ u.rxbuf = s.rxbuf

/-- R140, R48, R103: two booted instances over a transport that keeps order and may drop any frame. Whatever frames are
lost and whenever ticks come, no side faults or stops, what the receiver holds is always the beginning of the sender's
input, and when the receiver is in `RX_DONE` it is the whole input. A close is always delivered (D22's default, log
entry 11), and both instances have the same `MAX_LEN` (the model's choice, log entry 1). -/
def Obligations.LossyConnectionDeliversTheInput : Prop :=
  ∀ (s0 r0 s r : State) (input : List Byte) (n t tr sport dport sport' dport' : Byte) (sent sent' : List Output),
    1 ≤ n.toNat → n.toNat ≤ 127 → t ≠ 0 → tr ≠ 0 → input.length ≤ Config.maxLen →
    runInputs (senderBoot input n t sport dport) s0 = .next (s, sent) →
    runInputs (receiverBoot tr sport' dport') r0 = .next (r, sent') →
    ∀ actions : List Action, (∀ a ∈ actions, quietAction a = true) →
      ∃ c, runActions actions (openedConnection s r sent) = .next c ∧
        c.snd.ctl ≠ .error ∧ c.rcv.ctl ≠ .error ∧
        (∃ m, received c.rcv = .ok (input.take m)) ∧
        (c.rcv.ctl = .rxDone → received c.rcv = .ok input)

/-- R132, R127, R133: a clock cycle whose buffer reads exist and whose host write is allowed completes. `ev_ready` is 1 iff
the queue is empty and `rst = 0`; the event on the port is accepted then and only then, and its rule is run; the port shows
the head of the queue, and it leaves iff `out_ready = 1` and `rst = 0`. Of all else only the byte of the host write
changes. An event that stops the model stops the cycle. The order inside the cycle, and what is read or leaves in a reset
cycle, are log entry 8. -/
def Obligations.CycleFollowsTheHandshake : Prop :=
  ∀ (c : CycleIn) (s : State), (∀ i, c.txRead = some i ∨ c.rxRead = some i → i < Config.maxLen) →
    (∀ u : State, afterEdge c s u →
      (∀ i v, c.txWrite = some (i, v) → i < Config.maxLen ∧ ¬ (u.ctl = .txWait ∧ i < u.txLen.toNat)) →
      ∃ t o, cycle c s = .next (t, o) ∧
        (o.evReady = true ↔ s.outq = [] ∧ c.rst = false) ∧
        o.accepted = (if s.outq = [] ∧ c.rst = false then c.ev else none) ∧
        o.shown = s.outq.head? ∧
        o.left = (if c.outReady = true ∧ c.rst = false then s.outq.head? else none) ∧
        o.regData = c.regRead.map (readReg s) ∧
        t = { u with
          txbuf := match c.txWrite with
            | some (i, v) => Memory.write s.txbuf i v
            | none => s.txbuf
          draws := t.draws }) ∧
    (∀ e f, c.rst = false → s.outq = [] → c.ev = some e → acceptEvent e s = .fault f → cycle c s = .fault f)

/-- In a connection of two instances a RECV comes from the transport alone. A delivery gives the instance one RECV with
exactly the bytes of the oldest `Send` under way to it, or an empty one for a close (R136, R48), and a drop loses the oldest
frame (R48). The rest is the model's: that a RECV which the outside gives an instance itself is refused is log entry 13
(DEDUCED from I13); that what an instance sends goes under way behind everything of its side, an old Close included, and
that a close is never dropped (D22's default), is log entry 11 (DESIGN CHOICE). -/
def Obligations.TransportAloneBringsFrames : Prop :=
  ∀ c : Connection,
    (∀ e : Event, e.code = 4 → act (.atSender (.event e)) c = .refused .recvNotFromTransport ∧
      act (.atReceiver (.event e)) c = .refused .recvNotFromTransport) ∧
    (∀ bytes rest, bytes.length ≤ 71 → c.toRcv = .frame bytes :: rest →
      act .deliverToReceiver c = andThen (exec (.rxRecv (BitVec.ofNat 7 bytes.length) bytes) (settle c.rcv))
        (fun r => .next { c with rcv := r, toRcv := rest, toSnd := c.toSnd ++ packets r.outq }) ∧
      act .dropToReceiver c = .next { c with toRcv := rest }) ∧
    (∀ bytes rest, bytes.length ≤ 71 → c.toSnd = .frame bytes :: rest →
      act .deliverToSender c = andThen (exec (.txRecv (BitVec.ofNat 7 bytes.length) bytes) (settle c.snd))
        (fun s => .next { c with snd := s, toSnd := rest, toRcv := c.toRcv ++ packets s.outq }) ∧
      act .dropToSender c = .next { c with toSnd := rest }) ∧
    (∀ rest, c.toRcv = .close :: rest →
      act .deliverToReceiver c = andThen (exec (.rxRecv 0 []) (settle c.rcv))
        (fun r => .next { c with rcv := r, toRcv := rest, toSnd := c.toSnd ++ packets r.outq }) ∧
      act .dropToReceiver c = .next c) ∧
    (∀ rest, c.toSnd = .close :: rest →
      act .deliverToSender c = andThen (exec (.txRecv 0 []) (settle c.snd))
        (fun s => .next { c with snd := s, toSnd := rest, toRcv := c.toRcv ++ packets s.outq }) ∧
      act .dropToSender c = .next c)
end

