-- ==== Sys2Proof/Laws/Codec.lean ====
section
/-! SUPPORT. The laws of the padded port bytes, the masks and the two codec functions. -/

namespace Sys2Proof

/-! ### takePad -/

@[simp] theorem takePad_length (n : Nat) (l : List Byte) : (takePad n l).length = n := by
  induction n generalizing l with
  | zero => rfl
  | succ n ih => cases l <;> simp [takePad, ih]

theorem takePad_takePad {m n : Nat} (h : m ≤ n) (l : List Byte) : takePad m (takePad n l) = takePad m l := by
  induction m generalizing n l with
  | zero => rfl
  | succ m ih =>
    obtain ⟨n, rfl⟩ : ∃ k, n = k + 1 := ⟨n - 1, by omega⟩
    cases l <;> simp [takePad, ih (Nat.le_of_succ_le_succ h)]

theorem takePad_of_le {n : Nat} {l : List Byte} (h : n ≤ l.length) : takePad n l = l.take n := by
  induction n generalizing l with
  | zero => simp [takePad]
  | succ n ih =>
    cases l with
    | nil => simp at h
    | cons b l => simp [takePad, ih (Nat.le_of_succ_le_succ h)]

@[simp] theorem takePad_self (l : List Byte) : takePad l.length l = l := by
  rw [takePad_of_le (Nat.le_refl _), List.take_length]

theorem takePad_getD {n k : Nat} (h : k < n) (l : List Byte) : (takePad n l).getD k 0 = l.getD k 0 := by
  induction n generalizing k l with
  | zero => omega
  | succ n ih =>
    cases l with
    | nil =>
      cases k with
      | zero => rfl
      | succ k => simpa [takePad] using ih (k := k) (by omega) []
    | cons b l =>
      cases k with
      | zero => rfl
      | succ k => simpa [takePad] using ih (k := k) (by omega) l

theorem takePad_drop {m n k : Nat} (h : m + k ≤ n) (l : List Byte) :
    takePad m ((takePad n l).drop k) = takePad m (l.drop k) := by
  induction k generalizing n l with
  | zero => exact takePad_takePad (by omega) l
  | succ k ih =>
    obtain ⟨n, rfl⟩ : ∃ j, n = j + 1 := ⟨n - 1, by omega⟩
    cases l with
    | nil =>
      have := ih (n := n) (by omega) []
      simpa [takePad] using this
    | cons b l =>
      have := ih (n := n) (by omega) l
      simpa [takePad] using this

end Sys2Proof

namespace Sys2Proof.Machine

/-! ### The masks -/

theorem mask8_toNat (v : Int) : ((mask8 v).toNat : Int) = v % 256 := by
  rw [mask8, BitVec.toNat_ofInt]
  have := Int.emod_nonneg v (show (256 : Int) ≠ 0 by decide)
  simp only [Nat.reducePow, Nat.cast_ofNat]
  omega

@[simp] theorem mask8_natCast (n : Nat) : mask8 (n : Int) = BitVec.ofNat 8 n := by
  simp [mask8]

theorem mask8_byte (b : Byte) : mask8 (b.toNat : Int) = b := by simp

theorem mask1_toNat (v : Int) : ((mask1 v).toNat : Int) = v % 2 := by
  rw [mask1, BitVec.toNat_ofInt]
  have := Int.emod_nonneg v (show (2 : Int) ≠ 0 by decide)
  have := Int.emod_lt_of_pos v (show (0 : Int) < 2 by decide)
  simp only [Nat.reducePow, Nat.cast_ofNat]
  omega

theorem flagBit_mask1 (v : Int) : flagBit (mask1 v) = v % 2 := by
  have h := mask1_toNat v
  have := Int.emod_nonneg v (show (2 : Int) ≠ 0 by decide)
  have := Int.emod_lt_of_pos v (show (0 : Int) < 2 by decide)
  simp only [flagBit]
  omega

/-! ### pack and unpack -/

@[simp] theorem packFrame_length (f : Frame) : (packFrame f).length = 7 + f.payload.length := by
  simp [packFrame]
  omega

@[simp] theorem unpackFrame_zero (raw : List Byte) : unpackFrame 0 raw = .noFrame := by simp [unpackFrame]

theorem unpackFrame_short {n : Nat} (h : 1 ≤ n) (h' : n ≤ 6) (raw : List Byte) :
    unpackFrame n raw = .malformed := by
  simp only [unpackFrame]
  rw [if_neg (by omega), if_pos (show n < 7 by omega)]

theorem unpackFrame_long {n : Nat} (h : 71 < n) (raw : List Byte) : unpackFrame n raw = .malformed := by
  simp only [unpackFrame]
  rw [if_neg (by omega), if_neg (show ¬ n < 7 by omega), if_pos h]

/-- A byte string of 7 to 71 bytes decodes to a frame, field by field (R66). -/
theorem unpackFrame_frame {n : Nat} {raw : List Byte} (h : 7 ≤ n) (h' : n ≤ 71) (hl : 7 ≤ raw.length) :
    unpackFrame n raw = .frame
      { sp := (raw.getD 0 0).toNat, dp := (raw.getD 1 0).toNat, seq := (raw.getD 2 0).toNat,
        ack := (raw.getD 3 0).toNat, doff := (raw.getD 4 0).toNat, win := (raw.getD 5 0).toNat,
        rtx := flagBit (raw.getD 6 0), payload := raw.drop 7 } := by
  match raw, hl with
  | a :: b :: c :: d :: e :: f :: g :: p, _ =>
    simp only [unpackFrame]
    rw [if_neg (by omega), if_neg (show ¬ n < 7 by omega), if_neg (show ¬ 71 < n by omega)]
    rfl

/-- What `unpack` can answer, by the length it judges (R66 to R68). -/
theorem unpackFrame_cases {n : Nat} {raw : List Byte} (hl : n ≤ 71 → raw.length = n) :
    (n = 0 ∧ unpackFrame n raw = .noFrame) ∨
    ((1 ≤ n ∧ n ≤ 6 ∨ 71 < n) ∧ unpackFrame n raw = .malformed) ∨
    (7 ≤ n ∧ n ≤ 71 ∧ raw.length = n ∧ ∃ f, unpackFrame n raw = .frame f ∧ f.payload = raw.drop 7 ∧
      f.seq = (raw.getD 2 0).toNat ∧ f.ack = (raw.getD 3 0).toNat) := by
  by_cases h0 : n = 0
  · subst h0
    exact .inl ⟨rfl, unpackFrame_zero raw⟩
  · by_cases h6 : n ≤ 6
    · exact .inr (.inl ⟨.inl ⟨by omega, h6⟩, unpackFrame_short (by omega) h6 raw⟩)
    · by_cases h71 : 71 < n
      · exact .inr (.inl ⟨.inr h71, unpackFrame_long h71 raw⟩)
      · have hr := hl (by omega)
        refine .inr (.inr ⟨by omega, by omega, hr, _, unpackFrame_frame (by omega) (by omega) (by omega), rfl, rfl, rfl⟩)

theorem unpackFrame_frame_length {n : Nat} {raw : List Byte} {f : Frame} (h : unpackFrame n raw = .frame f) :
    7 ≤ n ∧ n ≤ 71 ∧ 7 ≤ raw.length := by
  simp only [unpackFrame, Config.headerSize, Config.maxFrame] at h
  split at h
  · cases h
  · split at h
    · cases h
    · split at h
      · cases h
      · rename_i h0 h7 h71
        refine ⟨by omega, by omega, ?_⟩
        split at h
        · simp
        · cases h

/-! ### The ACK frame -/

/-- The ACK frame on the wire carries `(e - 1) mod 256` (R92). -/
theorem ackFrame_wire (s : State) (e : Byte) : ackFrame s e = wireAckFrame s (e - 1) := by
  have h : mask8 ((e.toNat : Int) - 1) = e - 1 := by
    apply BitVec.eq_of_toNat_eq
    have h1 := mask8_toNat ((e.toNat : Int) - 1)
    have h2 : (e - 1).toNat = (e.toNat + 255) % 256 := by
      rw [BitVec.toNat_sub]
      simp
      omega
    have := e.isLt
    omega
  simp only [ackFrame, packFrame, wireAckFrame, h, mask8_byte]
  rfl

end Sys2Proof.Machine
end

