-- ==== Sys2Proof/Laws/Decode.lean ====
section
/-! SUPPORT. The lemmas of the decoder: an event's image decodes to the event with its data padded to the port's 71
bytes, and the padding changes no operand. -/

namespace Sys2Proof

open Sys2Proof.Machine

theorem decodeImage_encodeEvent (e : Event) : decodeImage (encodeEvent e) = .ok { e with data := takePad 71 e.data } := by
  obtain ⟨c, r, v, l, d⟩ := e
  have hc : (c.setWidth 8).toNat < 16 := by
    have := c.isLt
    simp; omega
  have hl : (l.setWidth 8).toNat < 128 := by
    have := l.isLt
    simp; omega
  simp only [encodeEvent, decodeImage, Config.maxFrame, takePad_length, ne_eq, not_true_eq_false, if_false]
  rw [if_neg (by omega), if_neg (by omega)]
  congr 2
  · simp
  · ext i hi
    simp only [BitVec.getElem_append, BitVec.getElem_extractLsb']
    repeat' split
    all_goals (rw [← BitVec.getLsbD_eq_getElem]; congr 1; omega)
  · simp

theorem frameOperand_pad (e : Event) : frameOperand { e with data := takePad 71 e.data } = frameOperand e := by
  simp only [frameOperand, Config.maxFrame]
  split
  · rename_i h; exact takePad_takePad h _
  · rfl
theorem payloadOperand_pad (e : Event) : payloadOperand { e with data := takePad 71 e.data } = payloadOperand e := by
  simp only [payloadOperand, Config.chunkSize, Config.headerSize]
  split
  · rename_i h; exact takePad_drop (by omega) _
  · rfl
theorem headerOperand_pad (e : Event) : headerOperand { e with data := takePad 71 e.data } = headerOperand e := by
  simp only [headerOperand]
  congr 1 <;> exact takePad_getD (by decide) _

theorem select_pad (sel : Selector) (e : Event) : select sel { e with data := takePad 71 e.data } = select sel e := by
  simp only [select, selectRecv, frameOperand_pad, payloadOperand_pad, headerOperand_pad]

theorem decode_encodeEvent (sel : Selector) (e : Event) : decode sel (encodeEvent e) = .ok (select sel e) := by
  simp only [decode, decodeImage_encodeEvent, select_pad]

theorem frameOperand_ok {len : BitVec 7} {raw : List Byte} (h : frameOperandOk len raw = true) (c : BitVec 4) :
    frameOperand { Event.plain c with len := len, data := raw } = raw := by
  simp only [frameOperandOk, beq_iff_eq, Config.maxFrame] at h
  simp only [frameOperand, Config.maxFrame]
  split
  · rename_i h1; rw [if_pos h1] at h; rw [← h]; exact takePad_self raw
  · rename_i h1; rw [if_neg h1] at h; exact (List.eq_nil_of_length_eq_zero h).symm

theorem payloadOperand_ok {len : BitVec 7} {hd : Header} {raw : List Byte} (h : payloadOperandOk len raw = true) (c : BitVec 4) :
    payloadOperand { Event.plain c with len := len, data := hd.bytes ++ raw } = raw := by
  simp only [payloadOperandOk, beq_iff_eq, Config.chunkSize] at h
  simp only [payloadOperand, Config.chunkSize, Config.headerSize]
  split
  · rename_i h1; rw [if_pos h1] at h; rw [← h]; exact takePad_self raw
  · rename_i h1; rw [if_neg h1] at h; exact (List.eq_nil_of_length_eq_zero h).symm

theorem frameOperand_wf (e : Event) : frameOperandOk e.len (frameOperand e) = true := by
  simp only [frameOperandOk, frameOperand]
  split <;> simp

theorem payloadOperand_wf (e : Event) : payloadOperandOk e.len (payloadOperand e) = true := by
  simp only [payloadOperandOk, payloadOperand]
  split <;> simp

end Sys2Proof
end

