-- ==== Sys2Proof/Laws/Draws.lean ====
section
/-! SUPPORT. An event's outcome does not depend on the model's own counter of free bytes (`State.draws`, log entry 6): run
with another count, it gives the same outcome with that count. A clock cycle, whose read ports draw before the event's
rule runs, rests on this. -/

namespace Sys2Proof.Machine

theorem sendFrames_draws (s : State) (d : Nat) (r : Int) (a n : Nat) :
    sendFrames { s with draws := d } r a n = sendFrames s r a n := by
  induction n generalizing a with
  | zero => rfl
  | succ n ih => simp only [sendFrames, ih]; rfl

theorem sendRange_draws (s : State) (d : Nat) (a b : Nat) (r : Int) :
    sendRange { s with draws := d } a b r = sendRange s a b r := sendFrames_draws s d r a (b - a)

/-- The outcome with the counter of free bytes set. -/
def drawn (d : Nat) (o : Host.Outcome State Fault Refusal) : Host.Outcome State Fault Refusal :=
  andThen o fun t => .next { t with draws := d }

theorem drawn_ite (d : Nat) (p : Prop) [Decidable p] (o o' : Host.Outcome State Fault Refusal) :
   drawn d (if p then o else o') = if p then drawn d o else drawn d o' := by split <;> rfl

theorem openSender_draws (s : State) (d : Nat) : openSender { s with draws := d } = drawn d (openSender s) := by
  have hc : chunkCount { s with draws := d } = chunkCount s := rfl
  simp only [openSender, sendRange_draws, hc]
  cases sendRange s 0 (min s.cfgN.toNat (chunkCount s)) 0 <;> first | rfl | (simp only [drawn_ite]; rfl)

theorem startEvent_draws (s : State) (d : Nat) : startEvent { s with draws := d } = drawn d (startEvent s) := by
  have h : startRole { s with draws := d } = drawn d (startRole s) := by
    simp only [startRole, openSender_draws, drawn_ite]; rfl
  simp only [startEvent]
  split <;> first | exact h | rfl

theorem tickEvent_draws (s : State) (d : Nat) : tickEvent { s with draws := d } = drawn d (tickEvent s) := by
  have h : senderTick { s with draws := d } = drawn d (senderTick s) := by
    simp only [senderTick, sendRange_draws, windowEnd, drawn_ite]
    cases sendRange s s.txBase.toNat (min (s.txBase.toNat + s.cfgN.toNat) s.txTotal.toNat) 1 <;> rfl
  have h' : receiverTick { s with draws := d } = drawn d (receiverTick s) := by
    simp only [receiverTick, drawn_ite]; rfl
  simp only [tickEvent]
  split <;> first | exact h | exact h' | rfl

theorem recvEvent_draws (len : BitVec 7) (raw : List Byte) (s : State) (d : Nat) :
    recvEvent len raw { s with draws := d } = drawn d (recvEvent len raw s) := by
  have h (k : Nat) : advanceWindow { s with draws := d } k = drawn d (advanceWindow s k) := by
    simp only [advanceWindow, sendRange_draws, windowEnd, drawn_ite]
    cases sendRange s s.txNext.toNat (min (s.txBase.toNat + k + 1 + s.cfgN.toNat) s.txTotal.toNat) 0 <;> rfl
  have h1 : senderRecv len raw { s with draws := d } = drawn d (senderRecv len raw s) := by
    simp only [senderRecv]
    cases unpackFrame len.toNat raw <;> first | rfl | (simp only [h, drawn_ite]; rfl)
  have h2 : receiverRecv len raw { s with draws := d } = drawn d (receiverRecv len raw s) := by
    simp only [receiverRecv]
    cases unpackFrame len.toNat raw <;> first | rfl | (simp only [drawn_ite]; rfl)
  simp only [recvEvent]
  split <;> first | exact h1 | exact h2 | rfl

theorem execCfgwr_draws (k : BitVec 8) (v : Word) (s : State) (d : Nat) :
    execCfgwr k v { s with draws := d } = drawn d (execCfgwr k v s) := by
  have h : writeCfg { s with draws := d } k v = (writeCfg s k v).map fun t => { t with draws := d } := by
    simp only [writeCfg]; split <;> rfl
  simp only [execCfgwr, h]
  split <;> first | rfl | (cases writeCfg s k v <;> rfl)

theorem reservedEvent_draws (s : State) (d : Nat) : reservedEvent { s with draws := d } = drawn d (reservedEvent s) := by
  simp only [reservedEvent]
  split <;> rfl

/-- No operation reads or writes the counter. -/
theorem exec_draws (i : Instr) (s : State) (d : Nat) : exec i { s with draws := d } = drawn d (exec i s) := by
  cases i with
  | nop => rfl
  | cfgwr k v => exact execCfgwr_draws k v s d
  | start => exact startEvent_draws s d
  | txStart => exact startEvent_draws s d
  | rxStart => exact startEvent_draws s d
  | txTick => exact tickEvent_draws s d
  | rxTick => exact tickEvent_draws s d
  | txRecv len raw => exact recvEvent_draws len raw s d
  | rxRecv len raw => exact recvEvent_draws len raw s d
  | pack len h p => rfl
  | unpack len raw => rfl
  | rsv7 => exact reservedEvent_draws s d
  | rsv8F c => exact reservedEvent_draws s d
theorem acceptEvent_draws (e : Event) (s : State) (d : Nat) :
    acceptEvent e { s with draws := d } = drawn d (acceptEvent e s) := exec_draws _ s d

end Sys2Proof.Machine
end

