-- ==== Sys2Proof/Laws/Memory.lean ====
section
/-! SUPPORT. The laws of the byte memories: read after write, the canonical form, ranges, and that memories in canonical
form are equal when they read equal. -/

namespace Sys2Proof.Machine

/-! ### One byte -/

@[simp] theorem Memory.read_nil (a : Nat) : Memory.read [] a = none := rfl

theorem Memory.read_cons (k : Nat) (v : Byte) (m : Memory) (a : Nat) :
    Memory.read ((k, v) :: m) a = if k = a then some v else Memory.read m a := rfl

@[simp] theorem Memory.read_write_self (m : Memory) (a : Nat) (v : Byte) :
    Memory.read (Memory.write m a v) a = some v := by
  induction m with
  | nil => simp [Memory.write, Memory.read]
  | cons c m ih =>
    obtain ⟨k, w⟩ := c
    simp only [Memory.write]
    split
    · simp [Memory.read]
    · split
      · simp [Memory.read]
      · rename_i h1 h2
        rw [Memory.read_cons, if_neg (fun h => h2 h.symm), ih]

theorem Memory.read_write_of_ne (m : Memory) {a b : Nat} (v : Byte) (h : a ≠ b) :
    Memory.read (Memory.write m a v) b = Memory.read m b := by
  induction m with
  | nil => simp [Memory.write, Memory.read, h]
  | cons c m ih =>
    obtain ⟨k, w⟩ := c
    simp only [Memory.write]
    split
    · rw [Memory.read_cons, if_neg h]
    · split
      · rename_i _ h2
        subst h2
        simp [Memory.read, h]
      · simp [Memory.read, ih]

theorem Memory.read_write (m : Memory) (a b : Nat) (v : Byte) :
    Memory.read (Memory.write m a v) b = if b = a then some v else Memory.read m b := by
  split
  · rename_i h
    rw [h, Memory.read_write_self]
  · rename_i h
    exact Memory.read_write_of_ne m v (fun e => h e.symm)

/-! ### The canonical form -/

theorem Memory.risesFrom_mono {lo lo' : Nat} {m : Memory} (hle : lo' ≤ lo) (h : Memory.risesFrom lo m = true) :
    Memory.risesFrom lo' m = true := by
  cases m with
  | nil => rfl
  | cons c m =>
    obtain ⟨k, w⟩ := c
    simp only [Memory.risesFrom, Bool.and_eq_true, decide_eq_true_eq] at h ⊢
    exact ⟨by omega, h.2⟩

theorem Memory.risesFrom_write {lo a : Nat} {m : Memory} (v : Byte) (h : Memory.risesFrom lo m = true)
    (hlo : lo ≤ a) : Memory.risesFrom lo (Memory.write m a v) = true := by
  induction m generalizing lo with
  | nil => simp [Memory.write, Memory.risesFrom, hlo]
  | cons c m ih =>
    obtain ⟨k, w⟩ := c
    simp only [Memory.risesFrom, Bool.and_eq_true, decide_eq_true_eq] at h
    simp only [Memory.write]
    split
    · simp only [Memory.risesFrom, Bool.and_eq_true, decide_eq_true_eq]
      exact ⟨hlo, by omega, h.2⟩
    · split
      · rename_i _ h2
        subst h2
        simp only [Memory.risesFrom, Bool.and_eq_true, decide_eq_true_eq]
        exact ⟨hlo, h.2⟩
      · simp only [Memory.risesFrom, Bool.and_eq_true, decide_eq_true_eq]
        exact ⟨h.1, ih h.2 (by omega)⟩

theorem Memory.wf_write {m : Memory} (a : Nat) (v : Byte) (h : Memory.wf m = true) :
    Memory.wf (Memory.write m a v) = true :=
  Memory.risesFrom_write v h (Nat.zero_le a)

theorem Memory.wf_writeRange {m : Memory} (a : Nat) (vs : List Byte) (h : Memory.wf m = true) :
    Memory.wf (Memory.writeRange m a vs) = true := by
  induction vs generalizing m a with
  | nil => exact h
  | cons v vs ih => exact ih (a + 1) (Memory.wf_write a v h)

theorem Memory.read_below {lo a : Nat} {m : Memory} (h : Memory.risesFrom lo m = true) (ha : a < lo) :
    Memory.read m a = none := by
  induction m generalizing lo with
  | nil => rfl
  | cons c m ih =>
    obtain ⟨k, w⟩ := c
    simp only [Memory.risesFrom, Bool.and_eq_true, decide_eq_true_eq] at h
    rw [Memory.read_cons, if_neg (by omega)]
    exact ih h.2 (by omega)

/-- Memories in canonical form that read equal are equal data. -/
theorem Memory.ext_of_read {lo : Nat} {m m' : Memory} (h : Memory.risesFrom lo m = true)
    (h' : Memory.risesFrom lo m' = true) (hread : ∀ a, Memory.read m a = Memory.read m' a) : m = m' := by
  induction m generalizing lo m' with
  | nil =>
    cases m' with
    | nil => rfl
    | cons c m' => simpa [Memory.read] using hread c.1
  | cons c m ih =>
    obtain ⟨k, w⟩ := c
    cases m' with
    | nil => simpa [Memory.read] using hread k
    | cons c' m' =>
      obtain ⟨k', w'⟩ := c'
      simp only [Memory.risesFrom, Bool.and_eq_true, decide_eq_true_eq] at h h'
      have hk : k = k' := by
        rcases Nat.lt_trichotomy k k' with hlt | heq | hgt
        · have hr := hread k
          rw [Memory.read_cons, if_pos rfl, Memory.read_cons, if_neg (by omega),
            Memory.read_below h'.2 (by omega)] at hr
          cases hr
        · exact heq
        · have hr := hread k'
          rw [Memory.read_cons, if_neg (by omega), Memory.read_below h.2 (by omega), Memory.read_cons,
            if_pos rfl] at hr
          cases hr
      subst hk
      have hw : w = w' := by simpa [Memory.read] using hread k
      subst hw
      have htail : m = m' := by
        apply ih h.2 h'.2
        intro a
        by_cases hak : k = a
        · subst hak
          rw [Memory.read_below h.2 (by omega), Memory.read_below h'.2 (by omega)]
        · simpa [Memory.read_cons, hak] using hread a
      rw [htail]

/-! ### Ranges -/

/-- What a range write leaves at every index (R34: byte `k` at `a + k`, every other byte as before). -/
theorem Memory.read_writeRange (m : Memory) (a : Nat) (vs : List Byte) (b : Nat) :
    Memory.read (Memory.writeRange m a vs) b =
      if a ≤ b ∧ b < a + vs.length then vs[b - a]? else Memory.read m b := by
  induction vs generalizing m a with
  | nil => simp [Memory.writeRange]
  | cons v vs ih =>
    rw [Memory.writeRange, ih, Memory.read_write]
    by_cases hba : b = a
    · subst hba
      simp
    · by_cases hin : a + 1 ≤ b ∧ b < a + 1 + vs.length
      · have hin' : a ≤ b ∧ b < a + (v :: vs).length := by
          simp only [List.length_cons]
          omega
        rw [if_pos hin, if_pos hin', show b - a = (b - (a + 1)) + 1 by omega]
        simp
      · have hin' : ¬ (a ≤ b ∧ b < a + (v :: vs).length) := by
          simp only [List.length_cons]
          omega
        rw [if_neg hin, if_neg hin', if_neg hba]

/-- A range whose bytes are all written reads as those bytes. -/
theorem Memory.readRange_of_written (m : Memory) (a n : Nat)
    (h : ∀ b, a ≤ b → b < a + n → (Memory.read m b).isSome) :
    Memory.readRange m a n = .ok ((List.range n).map fun k => (Memory.read m (a + k)).getD 0) := by
  induction n generalizing a with
  | zero => rfl
  | succ n ih =>
    obtain ⟨v, hv⟩ := Option.isSome_iff_exists.mp (h a (by omega) (by omega))
    rw [Memory.readRange, hv]
    simp only
    rw [ih (a + 1) (fun b h1 h2 => h b (by omega) (by omega))]
    simp only [List.range_succ_eq_map, List.map_cons, Nat.add_zero, hv, Option.getD_some, List.map_map]
    congr 2
    apply List.map_congr_left
    intro k _
    simp [Nat.add_assoc, Nat.add_comm 1 k]

/-- A range read stops at an index of the range that nothing has written. -/
theorem Memory.readRange_error {m : Memory} {a n i : Nat} (h : Memory.readRange m a n = .error i) :
    a ≤ i ∧ i < a + n ∧ Memory.read m i = none := by
  induction n generalizing a with
  | zero => cases h
  | succ n ih =>
    rw [Memory.readRange] at h
    split at h
    · rename_i hr
      cases h
      exact ⟨Nat.le_refl _, by omega, hr⟩
    · split at h
      · rename_i i' hi'
        cases h
        have := ih hi'
        exact ⟨by omega, by omega, this.2.2⟩
      · cases h

theorem Memory.readRange_length {m : Memory} {a n : Nat} {vs : List Byte} (h : Memory.readRange m a n = .ok vs) :
    vs.length = n := by
  induction n generalizing a vs with
  | zero =>
    cases h
    rfl
  | succ n ih =>
    rw [Memory.readRange] at h
    split at h
    · cases h
    · split at h
      · cases h
      · rename_i ws hws
        cases h
        simp [ih hws]

/-- A completed range read has found every byte of the range written. -/
theorem Memory.isSome_of_readRange {m : Memory} {a n x : Nat} {vs : List Byte} (h : Memory.readRange m a n = .ok vs)
    (h1 : a ≤ x) (h2 : x < a + n) : (Memory.read m x).isSome := by
  induction n generalizing a vs with
  | zero => omega
  | succ n ih =>
    rw [Memory.readRange] at h
    split at h
    · cases h
    · rename_i v hv
      split at h
      · cases h
      · rename_i ws hws
        by_cases hx : x = a
        · rw [hx, hv]
          rfl
        · exact ih hws (by omega) (by omega)

/-! ### Written and existing bytes -/

theorem Memory.writtenBelow_write {m : Memory} {n : Nat} (a : Nat) (v : Byte) (h : Memory.writtenBelow m n) :
    Memory.writtenBelow (Memory.write m a v) n := by
  intro b hb
  rw [Memory.read_write]
  split
  · rfl
  · exact h b hb

theorem Memory.writtenBelow_writeRange {m : Memory} {n : Nat} (vs : List Byte) (h : Memory.writtenBelow m n) :
    Memory.writtenBelow (Memory.writeRange m n vs) (n + vs.length) := by
  intro b hb
  rw [Memory.read_writeRange]
  split
  · rename_i hin
    rw [List.getElem?_eq_getElem (by omega)]
    rfl
  · exact h b (by omega)

theorem Memory.inRange_write {m : Memory} {a : Nat} (v : Byte) (h : Memory.inRange m) (ha : a < Config.maxLen) :
    Memory.inRange (Memory.write m a v) := by
  intro b hb
  rw [Memory.read_write] at hb
  split at hb
  · rename_i e
    exact e ▸ ha
  · exact h b hb

theorem Memory.inRange_writeRange {m : Memory} {a : Nat} {vs : List Byte} (h : Memory.inRange m)
    (ha : a + vs.length ≤ Config.maxLen) : Memory.inRange (Memory.writeRange m a vs) := by
  intro b hb
  rw [Memory.read_writeRange] at hb
  split at hb
  · omega
  · exact h b hb

/-! ### MAX_LEN -/

theorem maxLen_ge : Config.minMaxLen ≤ Config.maxLen := by
  unfold Config.maxLen
  omega

theorem maxLen_le : Config.maxLen ≤ 2 ^ 24 := by
  unfold Config.maxLen Config.minMaxLen
  have := Config.maxLenOffset.isLt
  omega

@[simp] theorem withinMaxLen_iff (n : Nat) : withinMaxLen n = true ↔ n ≤ Config.maxLen := by
  have := maxLen_ge
  simp only [withinMaxLen, Bool.or_eq_true, decide_eq_true_eq]
  omega

@[simp] theorem indexOk_iff (i : Nat) : indexOk i = true ↔ i < Config.maxLen := by
  simp [indexOk]

end Sys2Proof.Machine
end

