-- ==== Sys2Proof/Laws/State.lean ====
section
/-! SUPPORT. What each named update of the state does to each field, true by rfl, so that no later proof unfolds a
record update. -/

namespace Sys2Proof.Machine

/-! ### emit -/

@[simp] theorem emit_cfgRole (s : State) (os : List Output) : (emit s os).cfgRole = s.cfgRole := rfl
@[simp] theorem emit_cfgN (s : State) (os : List Output) : (emit s os).cfgN = s.cfgN := rfl
@[simp] theorem emit_cfgT (s : State) (os : List Output) : (emit s os).cfgT = s.cfgT := rfl
@[simp] theorem emit_cfgTr (s : State) (os : List Output) : (emit s os).cfgTr = s.cfgTr := rfl
@[simp] theorem emit_cfgSport (s : State) (os : List Output) : (emit s os).cfgSport = s.cfgSport := rfl
@[simp] theorem emit_cfgDport (s : State) (os : List Output) : (emit s os).cfgDport = s.cfgDport := rfl
@[simp] theorem emit_txLen (s : State) (os : List Output) : (emit s os).txLen = s.txLen := rfl
@[simp] theorem emit_ctl (s : State) (os : List Output) : (emit s os).ctl = s.ctl := rfl
@[simp] theorem emit_malf (s : State) (os : List Output) : (emit s os).malf = s.malf := rfl
@[simp] theorem emit_cause (s : State) (os : List Output) : (emit s os).cause = s.cause := rfl
@[simp] theorem emit_txBase (s : State) (os : List Output) : (emit s os).txBase = s.txBase := rfl
@[simp] theorem emit_txNext (s : State) (os : List Output) : (emit s os).txNext = s.txNext := rfl
@[simp] theorem emit_txTotal (s : State) (os : List Output) : (emit s os).txTotal = s.txTotal := rfl
@[simp] theorem emit_rxExp (s : State) (os : List Output) : (emit s os).rxExp = s.rxExp := rfl
@[simp] theorem emit_rxLen (s : State) (os : List Output) : (emit s os).rxLen = s.rxLen := rfl
@[simp] theorem emit_timer (s : State) (os : List Output) : (emit s os).timer = s.timer := rfl
@[simp] theorem emit_txbuf (s : State) (os : List Output) : (emit s os).txbuf = s.txbuf := rfl
@[simp] theorem emit_rxbuf (s : State) (os : List Output) : (emit s os).rxbuf = s.rxbuf := rfl
@[simp] theorem emit_outq (s : State) (os : List Output) : (emit s os).outq = s.outq ++ os := rfl
@[simp] theorem emit_inputs (s : State) (os : List Output) : (emit s os).inputs = s.inputs := rfl
@[simp] theorem emit_reply (s : State) (os : List Output) : (emit s os).reply = s.reply := rfl
@[simp] theorem emit_draws (s : State) (os : List Output) : (emit s os).draws = s.draws := rfl

/-! ### takeFault -/

@[simp] theorem takeFault_cfgRole (c : Cause) (s : State) : (takeFault c s).cfgRole = s.cfgRole := rfl
@[simp] theorem takeFault_cfgN (c : Cause) (s : State) : (takeFault c s).cfgN = s.cfgN := rfl
@[simp] theorem takeFault_cfgT (c : Cause) (s : State) : (takeFault c s).cfgT = s.cfgT := rfl
@[simp] theorem takeFault_cfgTr (c : Cause) (s : State) : (takeFault c s).cfgTr = s.cfgTr := rfl
@[simp] theorem takeFault_cfgSport (c : Cause) (s : State) : (takeFault c s).cfgSport = s.cfgSport := rfl
@[simp] theorem takeFault_cfgDport (c : Cause) (s : State) : (takeFault c s).cfgDport = s.cfgDport := rfl
@[simp] theorem takeFault_txLen (c : Cause) (s : State) : (takeFault c s).txLen = s.txLen := rfl
@[simp] theorem takeFault_ctl (c : Cause) (s : State) : (takeFault c s).ctl = .error := rfl
@[simp] theorem takeFault_malf (c : Cause) (s : State) : (takeFault c s).malf = s.malf := rfl
@[simp] theorem takeFault_cause (c : Cause) (s : State) : (takeFault c s).cause = c := rfl
@[simp] theorem takeFault_txBase (c : Cause) (s : State) : (takeFault c s).txBase = s.txBase := rfl
@[simp] theorem takeFault_txNext (c : Cause) (s : State) : (takeFault c s).txNext = s.txNext := rfl
@[simp] theorem takeFault_txTotal (c : Cause) (s : State) : (takeFault c s).txTotal = s.txTotal := rfl
@[simp] theorem takeFault_rxExp (c : Cause) (s : State) : (takeFault c s).rxExp = s.rxExp := rfl
@[simp] theorem takeFault_rxLen (c : Cause) (s : State) : (takeFault c s).rxLen = s.rxLen := rfl
@[simp] theorem takeFault_timer (c : Cause) (s : State) : (takeFault c s).timer = s.timer := rfl
@[simp] theorem takeFault_txbuf (c : Cause) (s : State) : (takeFault c s).txbuf = s.txbuf := rfl
@[simp] theorem takeFault_rxbuf (c : Cause) (s : State) : (takeFault c s).rxbuf = s.rxbuf := rfl
@[simp] theorem takeFault_outq (c : Cause) (s : State) : (takeFault c s).outq = s.outq ++ if connectionOpen s.ctl then [.close] else [] := rfl
@[simp] theorem takeFault_inputs (c : Cause) (s : State) : (takeFault c s).inputs = s.inputs := rfl
@[simp] theorem takeFault_reply (c : Cause) (s : State) : (takeFault c s).reply = s.reply := rfl
@[simp] theorem takeFault_draws (c : Cause) (s : State) : (takeFault c s).draws = s.draws := rfl

/-! ### settle -/

@[simp] theorem settle_cfgRole (s : State) : (settle s).cfgRole = s.cfgRole := rfl
@[simp] theorem settle_cfgN (s : State) : (settle s).cfgN = s.cfgN := rfl
@[simp] theorem settle_cfgT (s : State) : (settle s).cfgT = s.cfgT := rfl
@[simp] theorem settle_cfgTr (s : State) : (settle s).cfgTr = s.cfgTr := rfl
@[simp] theorem settle_cfgSport (s : State) : (settle s).cfgSport = s.cfgSport := rfl
@[simp] theorem settle_cfgDport (s : State) : (settle s).cfgDport = s.cfgDport := rfl
@[simp] theorem settle_txLen (s : State) : (settle s).txLen = s.txLen := rfl
@[simp] theorem settle_ctl (s : State) : (settle s).ctl = s.ctl := rfl
@[simp] theorem settle_malf (s : State) : (settle s).malf = s.malf := rfl
@[simp] theorem settle_cause (s : State) : (settle s).cause = s.cause := rfl
@[simp] theorem settle_txBase (s : State) : (settle s).txBase = s.txBase := rfl
@[simp] theorem settle_txNext (s : State) : (settle s).txNext = s.txNext := rfl
@[simp] theorem settle_txTotal (s : State) : (settle s).txTotal = s.txTotal := rfl
@[simp] theorem settle_rxExp (s : State) : (settle s).rxExp = s.rxExp := rfl
@[simp] theorem settle_rxLen (s : State) : (settle s).rxLen = s.rxLen := rfl
@[simp] theorem settle_timer (s : State) : (settle s).timer = s.timer := rfl
@[simp] theorem settle_txbuf (s : State) : (settle s).txbuf = s.txbuf := rfl
@[simp] theorem settle_rxbuf (s : State) : (settle s).rxbuf = s.rxbuf := rfl
@[simp] theorem settle_outq (s : State) : (settle s).outq = [] := rfl
@[simp] theorem settle_inputs (s : State) : (settle s).inputs = s.inputs := rfl
@[simp] theorem settle_reply (s : State) : (settle s).reply = none := rfl
@[simp] theorem settle_draws (s : State) : (settle s).draws = s.draws := rfl

/-! ### resetBlock -/

@[simp] theorem resetBlock_cfgRole (s : State) : (resetBlock s).cfgRole = State.reset.cfgRole := rfl
@[simp] theorem resetBlock_cfgN (s : State) : (resetBlock s).cfgN = State.reset.cfgN := rfl
@[simp] theorem resetBlock_cfgT (s : State) : (resetBlock s).cfgT = State.reset.cfgT := rfl
@[simp] theorem resetBlock_cfgTr (s : State) : (resetBlock s).cfgTr = State.reset.cfgTr := rfl
@[simp] theorem resetBlock_cfgSport (s : State) : (resetBlock s).cfgSport = State.reset.cfgSport := rfl
@[simp] theorem resetBlock_cfgDport (s : State) : (resetBlock s).cfgDport = State.reset.cfgDport := rfl
@[simp] theorem resetBlock_txLen (s : State) : (resetBlock s).txLen = State.reset.txLen := rfl
@[simp] theorem resetBlock_ctl (s : State) : (resetBlock s).ctl = State.reset.ctl := rfl
@[simp] theorem resetBlock_malf (s : State) : (resetBlock s).malf = State.reset.malf := rfl
@[simp] theorem resetBlock_cause (s : State) : (resetBlock s).cause = State.reset.cause := rfl
@[simp] theorem resetBlock_txBase (s : State) : (resetBlock s).txBase = State.reset.txBase := rfl
@[simp] theorem resetBlock_txNext (s : State) : (resetBlock s).txNext = State.reset.txNext := rfl
@[simp] theorem resetBlock_txTotal (s : State) : (resetBlock s).txTotal = State.reset.txTotal := rfl
@[simp] theorem resetBlock_rxExp (s : State) : (resetBlock s).rxExp = State.reset.rxExp := rfl
@[simp] theorem resetBlock_rxLen (s : State) : (resetBlock s).rxLen = State.reset.rxLen := rfl
@[simp] theorem resetBlock_timer (s : State) : (resetBlock s).timer = State.reset.timer := rfl
@[simp] theorem resetBlock_txbuf (s : State) : (resetBlock s).txbuf = s.txbuf := rfl
@[simp] theorem resetBlock_rxbuf (s : State) : (resetBlock s).rxbuf = s.rxbuf := rfl
@[simp] theorem resetBlock_outq (s : State) : (resetBlock s).outq = State.reset.outq := rfl
@[simp] theorem resetBlock_inputs (s : State) : (resetBlock s).inputs = s.inputs := rfl
@[simp] theorem resetBlock_reply (s : State) : (resetBlock s).reply = State.reset.reply := rfl
@[simp] theorem resetBlock_draws (s : State) : (resetBlock s).draws = s.draws := rfl

/-! ### presentEvent -/

@[simp] theorem presentEvent_cfgRole (e : Event) (s : State) : (presentEvent e s).cfgRole = s.cfgRole := rfl
@[simp] theorem presentEvent_cfgN (e : Event) (s : State) : (presentEvent e s).cfgN = s.cfgN := rfl
@[simp] theorem presentEvent_cfgT (e : Event) (s : State) : (presentEvent e s).cfgT = s.cfgT := rfl
@[simp] theorem presentEvent_cfgTr (e : Event) (s : State) : (presentEvent e s).cfgTr = s.cfgTr := rfl
@[simp] theorem presentEvent_cfgSport (e : Event) (s : State) : (presentEvent e s).cfgSport = s.cfgSport := rfl
@[simp] theorem presentEvent_cfgDport (e : Event) (s : State) : (presentEvent e s).cfgDport = s.cfgDport := rfl
@[simp] theorem presentEvent_txLen (e : Event) (s : State) : (presentEvent e s).txLen = s.txLen := rfl
@[simp] theorem presentEvent_ctl (e : Event) (s : State) : (presentEvent e s).ctl = s.ctl := rfl
@[simp] theorem presentEvent_malf (e : Event) (s : State) : (presentEvent e s).malf = s.malf := rfl
@[simp] theorem presentEvent_cause (e : Event) (s : State) : (presentEvent e s).cause = s.cause := rfl
@[simp] theorem presentEvent_txBase (e : Event) (s : State) : (presentEvent e s).txBase = s.txBase := rfl
@[simp] theorem presentEvent_txNext (e : Event) (s : State) : (presentEvent e s).txNext = s.txNext := rfl
@[simp] theorem presentEvent_txTotal (e : Event) (s : State) : (presentEvent e s).txTotal = s.txTotal := rfl
@[simp] theorem presentEvent_rxExp (e : Event) (s : State) : (presentEvent e s).rxExp = s.rxExp := rfl
@[simp] theorem presentEvent_rxLen (e : Event) (s : State) : (presentEvent e s).rxLen = s.rxLen := rfl
@[simp] theorem presentEvent_timer (e : Event) (s : State) : (presentEvent e s).timer = s.timer := rfl
@[simp] theorem presentEvent_txbuf (e : Event) (s : State) : (presentEvent e s).txbuf = s.txbuf := rfl
@[simp] theorem presentEvent_rxbuf (e : Event) (s : State) : (presentEvent e s).rxbuf = s.rxbuf := rfl
@[simp] theorem presentEvent_outq (e : Event) (s : State) : (presentEvent e s).outq = s.outq := rfl
@[simp] theorem presentEvent_inputs (e : Event) (s : State) : (presentEvent e s).inputs = .event e :: s.inputs := rfl
@[simp] theorem presentEvent_reply (e : Event) (s : State) : (presentEvent e s).reply = s.reply := rfl
@[simp] theorem presentEvent_draws (e : Event) (s : State) : (presentEvent e s).draws = s.draws := rfl

/-! ### hostReadReg -/

@[simp] theorem hostReadReg_cfgRole (k : BitVec 8) (s : State) : (hostReadReg k s).cfgRole = s.cfgRole := rfl
@[simp] theorem hostReadReg_cfgN (k : BitVec 8) (s : State) : (hostReadReg k s).cfgN = s.cfgN := rfl
@[simp] theorem hostReadReg_cfgT (k : BitVec 8) (s : State) : (hostReadReg k s).cfgT = s.cfgT := rfl
@[simp] theorem hostReadReg_cfgTr (k : BitVec 8) (s : State) : (hostReadReg k s).cfgTr = s.cfgTr := rfl
@[simp] theorem hostReadReg_cfgSport (k : BitVec 8) (s : State) : (hostReadReg k s).cfgSport = s.cfgSport := rfl
@[simp] theorem hostReadReg_cfgDport (k : BitVec 8) (s : State) : (hostReadReg k s).cfgDport = s.cfgDport := rfl
@[simp] theorem hostReadReg_txLen (k : BitVec 8) (s : State) : (hostReadReg k s).txLen = s.txLen := rfl
@[simp] theorem hostReadReg_ctl (k : BitVec 8) (s : State) : (hostReadReg k s).ctl = s.ctl := rfl
@[simp] theorem hostReadReg_malf (k : BitVec 8) (s : State) : (hostReadReg k s).malf = s.malf := rfl
@[simp] theorem hostReadReg_cause (k : BitVec 8) (s : State) : (hostReadReg k s).cause = s.cause := rfl
@[simp] theorem hostReadReg_txBase (k : BitVec 8) (s : State) : (hostReadReg k s).txBase = s.txBase := rfl
@[simp] theorem hostReadReg_txNext (k : BitVec 8) (s : State) : (hostReadReg k s).txNext = s.txNext := rfl
@[simp] theorem hostReadReg_txTotal (k : BitVec 8) (s : State) : (hostReadReg k s).txTotal = s.txTotal := rfl
@[simp] theorem hostReadReg_rxExp (k : BitVec 8) (s : State) : (hostReadReg k s).rxExp = s.rxExp := rfl
@[simp] theorem hostReadReg_rxLen (k : BitVec 8) (s : State) : (hostReadReg k s).rxLen = s.rxLen := rfl
@[simp] theorem hostReadReg_timer (k : BitVec 8) (s : State) : (hostReadReg k s).timer = s.timer := rfl
@[simp] theorem hostReadReg_txbuf (k : BitVec 8) (s : State) : (hostReadReg k s).txbuf = s.txbuf := rfl
@[simp] theorem hostReadReg_rxbuf (k : BitVec 8) (s : State) : (hostReadReg k s).rxbuf = s.rxbuf := rfl
@[simp] theorem hostReadReg_outq (k : BitVec 8) (s : State) : (hostReadReg k s).outq = s.outq := rfl
@[simp] theorem hostReadReg_inputs (k : BitVec 8) (s : State) : (hostReadReg k s).inputs = s.inputs := rfl
@[simp] theorem hostReadReg_reply (k : BitVec 8) (s : State) : (hostReadReg k s).reply = some (.word (readReg s k)) := rfl
@[simp] theorem hostReadReg_draws (k : BitVec 8) (s : State) : (hostReadReg k s).draws = s.draws := rfl

/-! ### discardFrame and acceptPayload -/

@[simp] theorem discardFrame_cfgRole (s : State) : (discardFrame s).cfgRole = s.cfgRole := rfl
@[simp] theorem discardFrame_cfgN (s : State) : (discardFrame s).cfgN = s.cfgN := rfl
@[simp] theorem discardFrame_cfgT (s : State) : (discardFrame s).cfgT = s.cfgT := rfl
@[simp] theorem discardFrame_cfgTr (s : State) : (discardFrame s).cfgTr = s.cfgTr := rfl
@[simp] theorem discardFrame_cfgSport (s : State) : (discardFrame s).cfgSport = s.cfgSport := rfl
@[simp] theorem discardFrame_cfgDport (s : State) : (discardFrame s).cfgDport = s.cfgDport := rfl
@[simp] theorem discardFrame_txLen (s : State) : (discardFrame s).txLen = s.txLen := rfl
@[simp] theorem discardFrame_ctl (s : State) : (discardFrame s).ctl = s.ctl := rfl
@[simp] theorem discardFrame_malf (s : State) : (discardFrame s).malf = s.malf := rfl
@[simp] theorem discardFrame_cause (s : State) : (discardFrame s).cause = s.cause := rfl
@[simp] theorem discardFrame_txBase (s : State) : (discardFrame s).txBase = s.txBase := rfl
@[simp] theorem discardFrame_txNext (s : State) : (discardFrame s).txNext = s.txNext := rfl
@[simp] theorem discardFrame_txTotal (s : State) : (discardFrame s).txTotal = s.txTotal := rfl
@[simp] theorem discardFrame_rxExp (s : State) : (discardFrame s).rxExp = s.rxExp := rfl
@[simp] theorem discardFrame_rxLen (s : State) : (discardFrame s).rxLen = s.rxLen := rfl
@[simp] theorem discardFrame_timer (s : State) : (discardFrame s).timer = 0 := rfl
@[simp] theorem discardFrame_txbuf (s : State) : (discardFrame s).txbuf = s.txbuf := rfl
@[simp] theorem discardFrame_rxbuf (s : State) : (discardFrame s).rxbuf = s.rxbuf := rfl
@[simp] theorem discardFrame_outq (s : State) : (discardFrame s).outq = s.outq ++ [.send (ackFrame s s.rxExp)] := rfl
@[simp] theorem discardFrame_inputs (s : State) : (discardFrame s).inputs = s.inputs := rfl
@[simp] theorem discardFrame_reply (s : State) : (discardFrame s).reply = s.reply := rfl
@[simp] theorem discardFrame_draws (s : State) : (discardFrame s).draws = s.draws := rfl
@[simp] theorem acceptPayload_cfgRole (p : List Byte) (s : State) :
    (acceptPayload p s).cfgRole = s.cfgRole := rfl
@[simp] theorem acceptPayload_cfgN (p : List Byte) (s : State) :
    (acceptPayload p s).cfgN = s.cfgN := rfl
@[simp] theorem acceptPayload_cfgT (p : List Byte) (s : State) :
    (acceptPayload p s).cfgT = s.cfgT := rfl
@[simp] theorem acceptPayload_cfgTr (p : List Byte) (s : State) :
    (acceptPayload p s).cfgTr = s.cfgTr := rfl
@[simp] theorem acceptPayload_cfgSport (p : List Byte) (s : State) :
    (acceptPayload p s).cfgSport = s.cfgSport := rfl
@[simp] theorem acceptPayload_cfgDport (p : List Byte) (s : State) :
    (acceptPayload p s).cfgDport = s.cfgDport := rfl
@[simp] theorem acceptPayload_txLen (p : List Byte) (s : State) :
    (acceptPayload p s).txLen = s.txLen := rfl
@[simp] theorem acceptPayload_ctl (p : List Byte) (s : State) :
    (acceptPayload p s).ctl = s.ctl := rfl
@[simp] theorem acceptPayload_malf (p : List Byte) (s : State) :
    (acceptPayload p s).malf = s.malf := rfl
@[simp] theorem acceptPayload_cause (p : List Byte) (s : State) :
    (acceptPayload p s).cause = s.cause := rfl
@[simp] theorem acceptPayload_txBase (p : List Byte) (s : State) :
    (acceptPayload p s).txBase = s.txBase := rfl
@[simp] theorem acceptPayload_txNext (p : List Byte) (s : State) :
    (acceptPayload p s).txNext = s.txNext := rfl
@[simp] theorem acceptPayload_txTotal (p : List Byte) (s : State) :
    (acceptPayload p s).txTotal = s.txTotal := rfl
@[simp] theorem acceptPayload_rxExp (p : List Byte) (s : State) :
    (acceptPayload p s).rxExp = s.rxExp + 1 := rfl
@[simp] theorem acceptPayload_rxLen (p : List Byte) (s : State) :
    (acceptPayload p s).rxLen = BitVec.ofNat 32 (s.rxLen.toNat + p.length) := rfl
@[simp] theorem acceptPayload_timer (p : List Byte) (s : State) :
    (acceptPayload p s).timer = 0 := rfl
@[simp] theorem acceptPayload_txbuf (p : List Byte) (s : State) :
    (acceptPayload p s).txbuf = s.txbuf := rfl
@[simp] theorem acceptPayload_rxbuf (p : List Byte) (s : State) :
    (acceptPayload p s).rxbuf = Memory.writeRange s.rxbuf s.rxLen.toNat p := rfl
@[simp] theorem acceptPayload_outq (p : List Byte) (s : State) :
    (acceptPayload p s).outq = s.outq ++ [.send (ackFrame s (s.rxExp + 1))] := rfl
@[simp] theorem acceptPayload_inputs (p : List Byte) (s : State) :
    (acceptPayload p s).inputs = s.inputs := rfl
@[simp] theorem acceptPayload_reply (p : List Byte) (s : State) :
    (acceptPayload p s).reply = s.reply := rfl
@[simp] theorem acceptPayload_draws (p : List Byte) (s : State) :
    (acceptPayload p s).draws = s.draws := rfl

/-! ### Emitting twice, and settling -/

@[simp] theorem emit_nil (s : State) : emit s [] = s := by simp [emit]

@[simp] theorem emit_emit (s : State) (a b : List Output) : emit (emit s a) b = emit s (a ++ b) := by
  simp [emit, List.append_assoc]

@[simp] theorem settle_settle (s : State) : settle (settle s) = settle s := rfl

end Sys2Proof.Machine
end

