-- ==== Sys2Proof/Laws/Sender.lean ====
section
/-! SUPPORT. What the sender sends: its frames on the wire when their bytes are written, how long they are, and which
unwritten byte stops the model. -/

namespace Sys2Proof.Machine

/-! ### One frame -/

theorem chunk_of_written {s : State} {i : Nat}
    (h : ∀ x, 64 * i ≤ x → x < min (64 * (i + 1)) s.txLen.toNat → (Memory.read s.txbuf x).isSome) :
    chunk s i = .ok (chunkBytes s i) := by
  have hn : min (64 * i + 64) s.txLen.toNat - 64 * i = min 64 (s.txLen.toNat - 64 * i) := by omega
  simp only [chunk, Config.chunkSize, hn]
  rw [Memory.readRange_of_written _ _ _ (fun b h1 h2 => h b h1 (by omega))]
  rfl

theorem chunk_length {s : State} {i : Nat} {p : List Byte} (h : chunk s i = .ok p) : p.length ≤ 64 := by
  simp only [chunk] at h
  split at h
  · cases h
  · rename_i vs hvs
    cases h
    have := Memory.readRange_length hvs
    simp only [Config.chunkSize] at this
    omega

theorem chunk_error {s : State} {i : Nat} {f : Fault} (h : chunk s i = .error f) :
    ∃ a, f = .unwrittenTxByte a ∧ a < s.txLen.toNat ∧ Memory.read s.txbuf a = none := by
  simp only [chunk] at h
  split at h
  · rename_i a ha
    cases h
    have := Memory.readRange_error ha
    exact ⟨a, rfl, by omega, this.2.2⟩
  · cases h

theorem dataFrameBytes_wire (s : State) (i : Nat) (r : Int) (p : List Byte) :
    dataFrameBytes s i r p = [s.cfgSport, s.cfgDport, BitVec.ofNat 8 i, 0, 7, 0, mask1 r] ++ p := by
  simp [dataFrameBytes, packFrame, mask8]

theorem dataFrame_of_written {s : State} {i : Nat} (r : Int)
    (h : ∀ x, 64 * i ≤ x → x < min (64 * (i + 1)) s.txLen.toNat → (Memory.read s.txbuf x).isSome) :
    dataFrame s i r = .ok (wireDataFrame s (mask1 r) i) := by
  simp only [dataFrame, chunk_of_written h, dataFrameBytes_wire]
  rfl

theorem dataFrame_length {s : State} {i : Nat} {r : Int} {bytes : List Byte} (h : dataFrame s i r = .ok bytes) :
    7 ≤ bytes.length ∧ bytes.length ≤ 71 := by
  simp only [dataFrame] at h
  split at h
  · cases h
  · rename_i p hp
    cases h
    have := chunk_length hp
    simp only [dataFrameBytes_wire, List.length_append, List.length_cons, List.length_nil]
    omega

theorem dataFrame_error {s : State} {i : Nat} {r : Int} {f : Fault} (h : dataFrame s i r = .error f) :
    ∃ a, f = .unwrittenTxByte a ∧ a < s.txLen.toNat ∧ Memory.read s.txbuf a = none := by
  simp only [dataFrame] at h
  split at h
  · rename_i g hg
    cases h
    exact chunk_error hg
  · cases h

/-! ### A range of frames (R76) -/

theorem framesWritten_of_le {s : State} {a b a' b' : Nat} (h : framesWritten s a b) (ha : a ≤ a') (hb : b' ≤ b) :
    framesWritten s a' b' := fun x h1 h2 => h x (by omega) (by omega)

theorem sendFrames_of_written {s : State} (r : Int) {a n : Nat} (h : framesWritten s a (a + n)) :
    sendFrames s r a n = .ok ((List.range' a n).map fun i => .send (wireDataFrame s (mask1 r) i)) := by
  induction n generalizing a with
  | zero => rfl
  | succ n ih =>
    have h1 := dataFrame_of_written (s := s) (i := a) r (fun x h1 h2 => h x h1 (by omega))
    have h2 := ih (a := a + 1) (framesWritten_of_le h (by omega) (by omega))
    simp only [sendFrames, h1, h2]
    simp [List.range'_succ]

/-- A range whose bytes are written is sent as the frames on the wire, in ascending order. -/
theorem sendRange_of_written {s : State} (r : Int) {a b : Nat} (h : framesWritten s a b) :
    sendRange s a b r = .ok (wireSends s (mask1 r) a b) := by
  by_cases hab : a ≤ b
  · rw [sendRange, sendFrames_of_written r (show framesWritten s a (a + (b - a)) by rwa [Nat.add_sub_cancel' hab])]
    rfl
  · rw [sendRange, wireSends, show b - a = 0 by omega]
    rfl

theorem sendFrames_ok {s : State} {r : Int} {a n : Nat} {os : List Output} (h : sendFrames s r a n = .ok os) :
    os.length = n ∧ ∀ o ∈ os, ∃ bytes, o = .send bytes ∧ 7 ≤ bytes.length ∧ bytes.length ≤ 71 := by
  induction n generalizing a os with
  | zero =>
    cases h
    simp
  | succ n ih =>
    simp only [sendFrames] at h
    split at h
    · cases h
    · rename_i bytes hb
      split at h
      · cases h
      · rename_i rest hrest
        cases h
        obtain ⟨hl, hs⟩ := ih hrest
        refine ⟨by simp [hl], ?_⟩
        intro o ho
        rcases List.mem_cons.mp ho with rfl | ho
        · exact ⟨bytes, rfl, dataFrame_length hb⟩
        · exact hs o ho

/-- What a completed range emits: one frame of 7 to 71 bytes per index, and nothing else. -/
theorem sendRange_ok {s : State} {r : Int} {a b : Nat} {os : List Output} (h : sendRange s a b r = .ok os) :
    os.length = b - a ∧ ∀ o ∈ os, ∃ bytes, o = .send bytes ∧ 7 ≤ bytes.length ∧ bytes.length ≤ 71 :=
  sendFrames_ok h

theorem sendFrames_error {s : State} {r : Int} {a n : Nat} {f : Fault} (h : sendFrames s r a n = .error f) :
    ∃ x, f = .unwrittenTxByte x ∧ x < s.txLen.toNat ∧ Memory.read s.txbuf x = none := by
  induction n generalizing a with
  | zero => cases h
  | succ n ih =>
    simp only [sendFrames] at h
    split at h
    · rename_i g hg
      cases h
      exact dataFrame_error hg
    · split at h
      · rename_i g hg
        cases h
        exact ih hg
      · cases h

/-- A range stops the model only at an unwritten byte below `TX_LEN` (R32, R36). -/
theorem sendRange_error {s : State} {r : Int} {a b : Nat} {f : Fault} (h : sendRange s a b r = .error f) :
    ∃ x, f = .unwrittenTxByte x ∧ x < s.txLen.toNat ∧ Memory.read s.txbuf x = none :=
  sendFrames_error h

theorem dataFrame_written {s : State} {i : Nat} {r : Int} {bytes : List Byte} (h : dataFrame s i r = .ok bytes) :
    ∀ x, 64 * i ≤ x → x < min (64 * (i + 1)) s.txLen.toNat → (Memory.read s.txbuf x).isSome := by
  simp only [dataFrame, chunk] at h
  split at h
  · cases h
  · rename_i p hp
    split at hp
    · cases hp
    · rename_i vs hvs
      intro x h1 h2
      exact Memory.isSome_of_readRange hvs h1 (by simp only [Config.chunkSize]; omega)

theorem sendFrames_written {s : State} {r : Int} {a n : Nat} {os : List Output} (h : sendFrames s r a n = .ok os) :
    framesWritten s a (a + n) := by
  induction n generalizing a os with
  | zero =>
    intro x h1 h2
    omega
  | succ n ih =>
    simp only [sendFrames] at h
    split at h
    · cases h
    · rename_i bytes hb
      split at h
      · cases h
      · rename_i rest hrest
        intro x h1 h2
        by_cases hx : x < 64 * (a + 1)
        · exact dataFrame_written hb x h1 (by omega)
        · exact ih hrest x (by omega) (by omega)

/-- A completed range has found all its bytes written. -/
theorem sendRange_written {s : State} {r : Int} {a b : Nat} {os : List Output} (h : sendRange s a b r = .ok os) :
    framesWritten s a b := by
  by_cases hab : a ≤ b
  · have := sendFrames_written h
    rwa [Nat.add_sub_cancel' hab] at this
  · intro x h1 h2
    omega

/-! ### The distance of an ACK (R77) -/

/-- The model's distance is the integer one of R77. -/
theorem ackDistance_wire (s : State) (raw : List Byte) :
    ackDistance s (raw.getD 3 0) = wireAckDistance s raw := by
  have h1 := (raw.getD 3 0).isLt
  simp only [ackDistance, seqDist, wireAckDistance, BitVec.toNat_sub, BitVec.toNat_ofNat]
  omega

theorem wireAckDistance_lt (s : State) (raw : List Byte) : wireAckDistance s raw < 256 := by
  simp only [wireAckDistance]
  omega

end Sys2Proof.Machine
end

