-- ==== Sys2Proof/Laws/Effect.lean ====
section
/-! SUPPORT. Everything an operation can do to a state, said once: `exec_effect` takes any operation that answers a next
state to one of the cases of `Effect`, guards included, so that a later proof splits these cases and unfolds no
meaning. -/

namespace Sys2Proof.Machine

/-- The effects of the operations: `Effect s t` holds when some operation takes `s` to `t`. -/
inductive Effect (s : State) : State → Prop where
  /-- NOP (R104), ignored events (R110, R111). -/
  | same : Effect s s
  /-- PACK and UNPACK (R72, R73). -/
  | result (c : ResultCode) (bytes : List Byte) : Effect s (emit s [.result c bytes])
  /-- Fault entry (R114). -/
  | fault (c : Cause) (hc : c ≠ .none) (hs : s.ctl ≠ .error) : Effect s (takeFault c s)
  /-- CFGWR (R105). -/
  | config (k : BitVec 8) (v : Word) (t : State) (hr : s.ctl.ready = true) (hw : writeCfg s k v = some t) : Effect s t
  /-- TX.START of an empty input (R78). -/
  | openEmpty (hr : s.ctl.ready = true) (hrole : s.cfgRole = 0) (hok : senderConfigOk s = true)
      (h0 : chunkCount s = 0) :
      Effect s (emit { s with txTotal := 0, txBase := 0, txNext := 0, timer := 0, malf := false, ctl := .txDone }
        [.close])
  /-- TX.START (R78). -/
  | openSender (burst : List Output) (hr : s.ctl.ready = true) (hrole : s.cfgRole = 0)
      (hok : senderConfigOk s = true) (h0 : chunkCount s ≠ 0)
      (hb : sendRange s 0 (min s.cfgN.toNat (chunkCount s)) 0 = .ok burst) :
      Effect s (emit { s with
        txTotal := BitVec.ofNat 32 (chunkCount s), txBase := 0,
        txNext := BitVec.ofNat 32 (min s.cfgN.toNat (chunkCount s)), timer := 0, malf := false, ctl := .txWait } burst)
  /-- RX.START (R93). -/
  | openReceiver (hr : s.ctl.ready = true) (hrole : s.cfgRole = 1) (hok : receiverConfigOk s = true) :
      Effect s { s with rxExp := 0, rxLen := 0, timer := 0, malf := false, ctl := .rxWait }
  /-- TX.TICK short of the timeout (R79). -/
  | senderCount (hw : s.ctl = .txWait) (ht : s.timer.toNat + 1 < s.cfgT.toNat) :
      Effect s { s with timer := BitVec.ofNat 8 (s.timer.toNat + 1) }
  /-- The sender's timeout (R80). -/
  | timeout (resent : List Output) (hw : s.ctl = .txWait) (ht : s.cfgT.toNat ≤ s.timer.toNat + 1)
      (hs : sendRange s s.txBase.toNat (windowEnd s s.txBase.toNat) 1 = .ok resent) :
      Effect s (emit { s with timer := 0 } resent)
  /-- A malformed RECV in a wait state (R86, R101). -/
  | malformed (ho : connectionOpen s.ctl = true) : Effect s { s with malf := true }
  /-- An invalid ACK (R85). -/
  | invalidAck (hw : s.ctl = .txWait) : Effect s { s with timer := 0 }
  /-- The last ACK (R83). -/
  | complete (d : Nat) (hw : s.ctl = .txWait) (hd : d < s.cfgN.toNat)
      (hc : s.txTotal.toNat ≤ s.txBase.toNat + d + 1) :
      Effect s (emit { s with timer := 0, txBase := BitVec.ofNat 32 (s.txBase.toNat + d + 1), ctl := .txDone } [.close])
  /-- Any other valid ACK (R84). -/
  | fill (d : Nat) (sent : List Output) (hw : s.ctl = .txWait) (hd : d < s.cfgN.toNat)
      (hc : s.txBase.toNat + d + 1 < s.txTotal.toNat)
      (hs : sendRange s s.txNext.toNat (windowEnd s (s.txBase.toNat + d + 1)) 0 = .ok sent) :
      Effect s (emit { s with
        timer := 0, txBase := BitVec.ofNat 32 (s.txBase.toNat + d + 1),
        txNext := BitVec.ofNat 32 (max s.txNext.toNat (windowEnd s (s.txBase.toNat + d + 1))) } sent)
  /-- RX.TICK short of the timeout (R94). -/
  | receiverCount (hw : s.ctl = .rxWait) (ht : s.timer.toNat + 1 < s.cfgTr.toNat) :
      Effect s { s with timer := BitVec.ofNat 8 (s.timer.toNat + 1) }
  /-- The receiver's timeout (R94). -/
  | receiverTimeout (hw : s.ctl = .rxWait) (ht : s.cfgTr.toNat ≤ s.timer.toNat + 1) : Effect s { s with timer := 0 }
  /-- The expected frame (R97). -/
  | accept (p : List Byte) (hw : s.ctl = .rxWait) (hp : s.rxLen.toNat + p.length ≤ Config.maxLen) :
      Effect s (acceptPayload p s)
  /-- Any other frame (R98). -/
  | discard (hw : s.ctl = .rxWait) : Effect s (discardFrame s)
  /-- The peer has closed (R100). -/
  | receiverClose (hw : s.ctl = .rxWait) : Effect s (emit { s with ctl := .rxDone } [.close])

theorem takeFault_effect {s t : State} {c : Cause} (hc : c ≠ .none) (hs : s.ctl ≠ .error)
    (h : (Host.Outcome.next (takeFault c s) : Host.Outcome State Fault Refusal) = .next t) : Effect s t := by
  cases h
  exact .fault c hc hs

theorem openSender_effect {s t : State} (hr : s.ctl.ready = true) (hrole : s.cfgRole = 0)
    (hok : senderConfigOk s = true) (h : openSender s = .next t) : Effect s t := by
  simp only [openSender] at h
  split at h
  · cases h
  · rename_i burst hb
    split at h
    · rename_i h0
      cases h
      have hlen := (sendRange_ok hb).1
      rw [h0, Nat.min_zero, Nat.sub_zero] at hlen
      rw [List.eq_nil_of_length_eq_zero hlen]
      simpa [h0] using Effect.openEmpty hr hrole hok h0
    · rename_i h0
      cases h
      exact .openSender burst hr hrole hok h0 hb

theorem startEvent_effect {s t : State} (h : startEvent s = .next t) : Effect s t := by
  have hrole : s.ctl.ready = true → startRole s = .next t → Effect s t := by
    intro hr h
    have hs : s.ctl ≠ .error := by
      intro he
      rw [he] at hr
      cases hr
    simp only [startRole] at h
    split at h
    · rename_i h0
      split at h
      · rename_i hok
        exact openSender_effect hr h0 hok h
      · exact takeFault_effect (by decide) hs h
    · split at h
      · rename_i h1
        split at h
        · rename_i hok
          cases h
          exact .openReceiver hr h1 hok
        · exact takeFault_effect (by decide) hs h
      · exact takeFault_effect (by decide) hs h
  simp only [startEvent] at h
  cases hc : s.ctl <;> simp only [hc] at h
  · exact hrole (by rw [hc]; rfl) h
  · exact takeFault_effect (by decide) (by rw [hc]; decide) h
  · exact hrole (by rw [hc]; rfl) h
  · exact takeFault_effect (by decide) (by rw [hc]; decide) h
  · exact hrole (by rw [hc]; rfl) h
  · cases h
    exact .same

theorem execCfgwr_effect {s t : State} {k : BitVec 8} {v : Word} (h : execCfgwr k v s = .next t) : Effect s t := by
  have hwrite : s.ctl.ready = true → (match writeCfg s k v with
      | some s' => Host.Outcome.next s'
      | none => .next (takeFault .illegalOp s)) = (.next t : Host.Outcome State Fault Refusal) → Effect s t := by
    intro hr h
    have hs : s.ctl ≠ .error := by
      intro he
      rw [he] at hr
      cases hr
    split at h
    · rename_i s' hw
      cases h
      exact .config k v t hr hw
    · exact takeFault_effect (by decide) hs h
  simp only [execCfgwr] at h
  cases hc : s.ctl <;> simp only [hc] at h
  · exact hwrite (by rw [hc]; rfl) h
  · exact takeFault_effect (by decide) (by rw [hc]; decide) h
  · exact hwrite (by rw [hc]; rfl) h
  · exact takeFault_effect (by decide) (by rw [hc]; decide) h
  · exact hwrite (by rw [hc]; rfl) h
  · cases h
    exact .same

theorem reservedEvent_effect {s t : State} (h : reservedEvent s = .next t) : Effect s t := by
  simp only [reservedEvent] at h
  cases hc : s.ctl <;> simp only [hc] at h
  case error =>
    cases h
    exact .same
  all_goals exact takeFault_effect (by decide) (by rw [hc]; decide) h

theorem tickEvent_effect {s t : State} (h : tickEvent s = .next t) : Effect s t := by
  simp only [tickEvent] at h
  cases hc : s.ctl <;> simp only [hc] at h
  case txWait =>
    simp only [senderTick] at h
    split at h
    · rename_i ht
      split at h
      · cases h
      · rename_i resent hs
        cases h
        exact .timeout resent hc ht hs
    · rename_i ht
      cases h
      exact .senderCount hc (by omega)
  case rxWait =>
    simp only [receiverTick] at h
    split at h
    · rename_i ht
      cases h
      exact .receiverTimeout hc ht
    · rename_i ht
      cases h
      exact .receiverCount hc (by omega)
  all_goals
    cases h
    exact .same

theorem advanceWindow_effect {s t : State} {d : Nat} (hw : s.ctl = .txWait) (hd : d < s.cfgN.toNat)
    (h : advanceWindow s d = .next t) : Effect s t := by
  simp only [advanceWindow] at h
  split at h
  · rename_i hc
    cases h
    exact .complete d hw hd hc
  · rename_i hc
    split at h
    · cases h
    · rename_i sent hs
      cases h
      exact .fill d sent hw hd (by omega) hs

theorem recvEvent_effect {s t : State} {len : BitVec 7} {raw : List Byte} (h : recvEvent len raw s = .next t) :
    Effect s t := by
  simp only [recvEvent] at h
  cases hc : s.ctl <;> simp only [hc] at h
  case txWait =>
    simp only [senderRecv] at h
    split at h
    · cases h
      exact .malformed (by rw [hc]; rfl)
    · exact takeFault_effect (by decide) (by rw [hc]; decide) h
    · split at h
      · rename_i hv
        exact advanceWindow_effect hc (by simpa [ackValid] using hv) h
      · cases h
        exact .invalidAck hc
  case rxWait =>
    simp only [receiverRecv] at h
    split at h
    · cases h
      exact .malformed (by rw [hc]; rfl)
    · cases h
      exact .receiverClose hc
    · split at h
      · split at h
        · rename_i hm
          cases h
          exact .accept _ hc ((withinMaxLen_iff _).mp hm)
        · exact takeFault_effect (by decide) (by rw [hc]; decide) h
      · cases h
        exact .discard hc
  all_goals
    cases h
    exact .same

/-- Whatever an operation does, it is one of the effects. -/
theorem exec_effect {i : Instr} {s t : State} (h : exec i s = .next t) : Effect s t := by
  cases i with
  | nop =>
    cases h
    exact .same
  | cfgwr k v => exact execCfgwr_effect h
  | start => exact startEvent_effect h
  | txStart => exact startEvent_effect h
  | rxStart => exact startEvent_effect h
  | txTick => exact tickEvent_effect h
  | rxTick => exact tickEvent_effect h
  | txRecv len raw => exact recvEvent_effect h
  | rxRecv len raw => exact recvEvent_effect h
  | pack len hdr p =>
    cases h
    simp only [packResult]
    split <;> exact .result _ _
  | unpack len raw =>
    cases h
    simp only [unpackResult]
    split <;> exact .result _ _
  | rsv7 => exact reservedEvent_effect h
  | rsv8F code => exact reservedEvent_effect h

/-- A configuration write changes one configuration register, by its index. -/
theorem writeCfg_cases {s t : State} {k : BitVec 8} {v : Word} (h : writeCfg s k v = some t) :
    (k = 0 ∧ t = { s with cfgRole := v.setWidth 2 }) ∨ (k = 1 ∧ t = { s with cfgN := v.setWidth 8 }) ∨
    (k = 2 ∧ t = { s with cfgT := v.setWidth 8 }) ∨ (k = 3 ∧ t = { s with cfgTr := v.setWidth 8 }) ∨
    (k = 4 ∧ t = { s with cfgSport := v.setWidth 8 }) ∨ (k = 5 ∧ t = { s with cfgDport := v.setWidth 8 }) ∨
    (k = 6 ∧ t = { s with txLen := v }) := by
  have hk : ∀ n : Nat, n < 256 → k.toNat = n → k = BitVec.ofNat 8 n := by
    intro n hn h
    apply BitVec.eq_of_toNat_eq
    rw [h, BitVec.toNat_ofNat, Nat.mod_eq_of_lt hn]
  simp only [writeCfg] at h
  split at h <;> cases h
  · rename_i e; exact .inl ⟨hk 0 (by decide) e, rfl⟩
  · rename_i e; exact .inr (.inl ⟨hk 1 (by decide) e, rfl⟩)
  · rename_i e; exact .inr (.inr (.inl ⟨hk 2 (by decide) e, rfl⟩))
  · rename_i e; exact .inr (.inr (.inr (.inl ⟨hk 3 (by decide) e, rfl⟩)))
  · rename_i e; exact .inr (.inr (.inr (.inr (.inl ⟨hk 4 (by decide) e, rfl⟩))))
  · rename_i e; exact .inr (.inr (.inr (.inr (.inr (.inl ⟨hk 5 (by decide) e, rfl⟩)))))
  · rename_i e; exact .inr (.inr (.inr (.inr (.inr (.inr ⟨hk 6 (by decide) e, rfl⟩)))))

/-! ### Requests of the outside -/

/-- What the outside can do in one step, by the kind of request. -/
theorem applyInput_cases {a : Input} {s t : State} (h : applyInput a s = .next t) :
    (∃ e, a = .event e ∧ Effect s t) ∨
    (∃ i v, a = .writeTx i v ∧ i < Config.maxLen ∧ ¬ (s.ctl = .txWait ∧ i < s.txLen.toNat) ∧
      t = { s with txbuf := Memory.write s.txbuf i v }) ∨
    (∃ k, a = .readReg k ∧ t = { s with reply := some (.word (readReg s k)) }) ∨
    (∃ i, a = .readTx i ∧ i < Config.maxLen ∧ t = { s with reply := some (.byte (txByte s i)) }) ∨
    (∃ i, a = .readRx i ∧ i < Config.maxLen ∧
      t = { s with reply := some (.byte (rxAnswer s i).1), draws := (rxAnswer s i).2 }) ∨
    (a = .rst ∧ t = resetBlock s) := by
  cases a with
  | event e => exact .inl ⟨e, rfl, exec_effect h⟩
  | writeTx i v =>
    simp only [applyInput, hostWriteTx] at h
    split at h
    · rename_i hi
      split at h
      · cases h
      · rename_i hw
        cases h
        exact .inr (.inl ⟨i, v, rfl, (indexOk_iff i).mp hi, hw, rfl⟩)
    · cases h
  | readReg k =>
    cases h
    exact .inr (.inr (.inl ⟨k, rfl, rfl⟩))
  | readTx i =>
    simp only [applyInput, hostReadTx] at h
    split at h
    · rename_i hi
      cases h
      exact .inr (.inr (.inr (.inl ⟨i, rfl, (indexOk_iff i).mp hi, rfl⟩)))
    · cases h
  | readRx i =>
    simp only [applyInput, hostReadRx] at h
    split at h
    · rename_i hi
      cases h
      exact .inr (.inr (.inr (.inr (.inl ⟨i, rfl, (indexOk_iff i).mp hi, rfl⟩))))
    · cases h
  | rst =>
    cases h
    exact .inr (.inr (.inr (.inr (.inr ⟨rfl, rfl⟩))))

end Sys2Proof.Machine
end

