-- ==== Sys2Proof/Laws/Meanings.lean ====
section
/-! SUPPORT. What the shared operations do in each kind of state, said once: the ready states, an open connection, a
received frame. A proof about a meaning cites these and unfolds no dispatch. -/

namespace Sys2Proof.Machine

theorem ready_cases {c : ControlState} (h : c.ready = true) : c = .idle ∨ c = .txDone ∨ c = .rxDone := by
  cases c <;> simp_all [ControlState.ready]

theorem open_cases {c : ControlState} (h : connectionOpen c = true) : c = .txWait ∨ c = .rxWait := by
  cases c <;> simp_all [connectionOpen]

theorem ready_not_waiting {c : ControlState} (h : c.ready = true) : c ≠ .txWait ∧ c ≠ .rxWait ∧ c ≠ .error := by
  cases c <;> simp_all [ControlState.ready]

theorem senderConfigOk_iff (s : State) : senderConfigOk s = true ↔ senderConfigLegal s := by
  simp [senderConfigOk, senderConfigLegal, and_assoc]

theorem receiverConfigOk_iff (s : State) : receiverConfigOk s = true ↔ s.cfgTr ≠ 0 := by
  simp [receiverConfigOk]

theorem startEvent_ready {s : State} (h : s.ctl.ready = true) : startEvent s = startRole s := by
  simp only [startEvent]
  cases hc : s.ctl <;> simp_all [ControlState.ready]

theorem takeFault_ready {s : State} (c : Cause) (h : s.ctl.ready = true) :
    takeFault c s = { s with ctl := .error, cause := c } := by
  cases hc : s.ctl <;> simp_all [ControlState.ready, takeFault, connectionOpen, emit]

theorem takeFault_open {s : State} (c : Cause) (h : connectionOpen s.ctl = true) :
    takeFault c s = { s with ctl := .error, cause := c, outq := s.outq ++ [.close] } := by
  simp [takeFault, h, emit]

theorem closes_iff (s : State) :
    (if connectionOpen s.ctl then [Output.close] else []) =
      if s.ctl = .txWait ∨ s.ctl = .rxWait then [.close] else [] := by
  cases s.ctl <;> simp [connectionOpen]

theorem ofNat_timer_succ (b : BitVec 8) : BitVec.ofNat 8 (b.toNat + 1) = b + 1 := by
  apply BitVec.eq_of_toNat_eq
  simp

theorem ofNat_index {n : Nat} (h : n ≤ 2 ^ 25) : (BitVec.ofNat 32 n).toNat = n := by
  rw [BitVec.toNat_ofNat]
  omega

theorem unpackFrame_malformed {len : BitVec 7} (h : isMalformedLength len) (raw : List Byte) :
    unpackFrame len.toNat raw = .malformed := by
  rcases h with ⟨h1, h2⟩ | h1
  · exact unpackFrame_short h1 h2 raw
  · exact unpackFrame_long h1 raw

/-- A decoded frame in `TX_WAIT` (R82). -/
theorem senderRecv_frame {len : BitVec 7} {raw : List Byte} (h : isFrameOperand len raw) (s : State) :
    senderRecv len raw s =
      if wireAckDistance s raw < s.cfgN.toNat then advanceWindow s (wireAckDistance s raw)
      else .next { s with timer := 0 } := by
  obtain ⟨h1, h2, h3⟩ := h
  simp only [senderRecv]
  rw [unpackFrame_frame h1 h2 (by omega)]
  simp only [ackValid, mask8_byte, ackDistance_wire, decide_eq_true_eq]

/-- A decoded frame in `RX_WAIT` (R96). -/
theorem receiverRecv_frame {len : BitVec 7} {raw : List Byte} (h : isFrameOperand len raw) (s : State) :
    receiverRecv len raw s =
      if raw.getD 2 0 = s.rxExp then
        if s.rxLen.toNat + (len.toNat - 7) ≤ Config.maxLen then .next (acceptPayload (raw.drop 7) s)
        else .next (takeFault .rxOverflow s)
      else .next (discardFrame s) := by
  obtain ⟨h1, h2, h3⟩ := h
  simp only [receiverRecv]
  rw [unpackFrame_frame h1 h2 (by omega)]
  simp only [withinMaxLen_iff, List.length_drop, h3]
  have hseq : (((raw.getD 2 0).toNat : Int) = (s.rxExp.toNat : Int)) ↔ raw.getD 2 0 = s.rxExp := by
    constructor
    · intro h
      exact BitVec.eq_of_toNat_eq (by exact_mod_cast h)
    · intro h
      rw [h]
  simp only [hseq]

/-- The padding of a list that fits. -/
theorem takePad_append {l : List Byte} {n : Nat} (h : l.length ≤ n) :
    takePad n l = l ++ List.replicate (n - l.length) 0 := by
  induction l generalizing n with
  | nil =>
    induction n with
    | zero => rfl
    | succ n ih => simpa [takePad, List.replicate_succ] using ih (by simp)
  | cons b l ih =>
    obtain ⟨n, rfl⟩ : ∃ k, n = k + 1 := ⟨n - 1, by simp at h; omega⟩
    simp only [takePad, List.cons_append, List.length_cons]
    rw [ih (by simpa using h)]
    simp

end Sys2Proof.Machine
end

