-- ==== Sys2Proof/Laws/PerInstr.lean ====
section
/-! SUPPORT. Statements made of every operation, one lemma per constructor. -/

namespace Sys2Proof.Laws.ImageShape

open Sys2Proof Sys2Proof.Machine

/-- R53, R54: an operation's image has one code byte, the operand fields of the port and the 71 bytes of `ev_data`, and
its code byte is the row's `ev_code` in bits 3:0 with zeros above (the image is log entry 2). -/
def Statement (i : Instr) : Prop := (encode i).length = 78 ∧ (encode i).head? = some (i.code.setWidth 8)

theorem of_code (i : Instr) (h : i.event.code = i.code) : Statement i := by
  refine ⟨?_, ?_⟩
  · simp [encode, encodeEvent, Config.maxFrame]
  · simp [encode, encodeEvent, h]

theorem nop : Statement .nop := of_code _ rfl
theorem cfgwr (reg : BitVec 8) (val : Word) : Statement (.cfgwr reg val) := of_code _ rfl
theorem start : Statement .start := of_code _ rfl
theorem txStart : Statement .txStart := of_code _ rfl
theorem rxStart : Statement .rxStart := of_code _ rfl
theorem txTick : Statement .txTick := of_code _ rfl
theorem rxTick : Statement .rxTick := of_code _ rfl
theorem txRecv (len : BitVec 7) (raw : List Byte) : Statement (.txRecv len raw) := of_code _ rfl
theorem rxRecv (len : BitVec 7) (raw : List Byte) : Statement (.rxRecv len raw) := of_code _ rfl
theorem pack (len : BitVec 7) (hdr : Header) (payload : List Byte) : Statement (.pack len hdr payload) := of_code _ rfl
theorem unpack (len : BitVec 7) (raw : List Byte) : Statement (.unpack len raw) := of_code _ rfl
theorem rsv7 : Statement .rsv7 := of_code _ rfl
theorem rsv8F (code : BitVec 4) : Statement (.rsv8F code) := of_code _ rfl

end Sys2Proof.Laws.ImageShape
end

