-- ==== Sys2Proof/Machine/Assembler.lean ====
section
/-! DEFINITION. The event syntax of 30_encoding.md R61 with the pseudo-instructions of R62: one line of text, as a list
of characters, to the events it stands for. A line the syntax does not allow gives none. The points of the syntax that
R61 leaves open are log entry 12. -/

namespace Sys2Proof.Machine

/-- Where a character first stands in an alphabet, counted from `n`. -/
def placeFrom (n : Nat) (mark : Char) : List Char → Option Nat
  | [] => none
  | d :: ds => if d == mark then some n else placeFrom (n + 1) mark ds

/-- The value of a digit is its place among the digits of its base, in ascending order. -/
def decDigit (mark : Char) : Option Nat := placeFrom 0 mark "0123456789".toList

/-- A hexadecimal digit of R61; its letters are capital or small (log entry 12). -/
def hexDigit (mark : Char) : Option Nat :=
  match placeFrom 0 mark "0123456789ABCDEF".toList with
  | some v => some v
  | none => placeFrom 10 mark "abcdef".toList

/-- Digits of a base, most significant first, after the number read so far. -/
def digits (digit : Char → Option Nat) (base : Nat) : Nat → List Char → Option Nat
  | n, [] => some n
  | n, c :: cs =>
    match digit c with
    | some d => digits digit base (n * base + d) cs
    | none => none

/-- "Numbers are decimal, or hexadecimal with `0x`" (R61). -/
def number : List Char → Option Nat
  | [] => none
  | '0' :: 'x' :: c :: cs => digits hexDigit 16 0 (c :: cs)
  | c :: cs => digits decDigit 10 0 (c :: cs)

/-- A number below a bound. -/
def numberBelow (bound : Nat) (w : List Char) : Option Nat :=
  match number w with
  | some n => if n < bound then some n else none
  | none => none

/-- The line without its comment: "`;` starts a comment" (R61). -/
def stripComment : List Char → List Char
  | [] => []
  | c :: cs => if c = ';' then [] else c :: stripComment cs

/-- A word if it has a character. -/
def endWord (w : List Char) (ws : List (List Char)) : List (List Char) := if w = [] then ws else w :: ws

/-- Split at blanks and commas; a bracket is a word of its own. -/
def tokens : List Char → List Char → List (List Char)
  | w, [] => endWord w []
  | w, c :: cs =>
    if c = ' ' ∨ c = '\t' ∨ c = ',' then endWord w (tokens [] cs)
    else if c = '[' ∨ c = ']' then endWord w ([c] :: tokens [] cs)
    else tokens (w ++ [c]) cs

/-- The bytes after an opening bracket, "two-digit hexadecimal bytes separated by spaces" (R61), and the words after
the closing one. -/
def bytesToClose : List (List Char) → Option (List Byte × List (List Char))
  | [] => none
  | [']'] :: ws => some ([], ws)
  | [a, b] :: ws =>
    match hexDigit a, hexDigit b, bytesToClose ws with
    | some x, some y, some (bs, rest) => some (BitVec.ofNat 8 (16 * x + y) :: bs, rest)
    | _, _, _ => none
  | _ :: _ => none

/-- A byte string in brackets, and the words after it. -/
def byteString : List (List Char) → Option (List Byte × List (List Char))
  | ['['] :: ws => bytesToClose ws
  | _ => none

/-- `len=<n>` (R61): a length without its bytes, which are all 0. -/
def lengthOnly : List (List Char) → Option Nat
  | ['l' :: 'e' :: 'n' :: '=' :: ds] => numberBelow 128 ds
  | _ => none

/-- The frame operand of RECV and UNPACK: at most 71 bytes in brackets, or a length alone. -/
def frameArgs (ws : List (List Char)) : Option (BitVec 7 × List Byte) :=
  match byteString ws with
  | some (bs, []) => if bs.length ≤ Config.maxFrame then some (BitVec.ofNat 7 bs.length, bs) else none
  | _ =>
    match lengthOnly ws with
    | some n => some (BitVec.ofNat 7 n, [])
    | none => none

/-- The payload operand of PACK: at most 64 bytes in brackets, or a length alone. -/
def payloadArgs (ws : List (List Char)) : Option (BitVec 7 × List Byte) :=
  match byteString ws with
  | some (bs, []) => if bs.length ≤ Config.chunkSize then some (BitVec.ofNat 7 bs.length, bs) else none
  | _ =>
    match lengthOnly ws with
    | some n => some (BitVec.ofNat 7 n, [])
    | none => none

/-- The registers by name (R7). -/
def registerNames : List (List Char × Nat) :=
  [("CFG_ROLE".toList, 0x00), ("CFG_N".toList, 0x01), ("CFG_T".toList, 0x02), ("CFG_TR".toList, 0x03),
   ("CFG_SPORT".toList, 0x04), ("CFG_DPORT".toList, 0x05), ("TX_LEN".toList, 0x06), ("STATUS".toList, 0x08)] ++
  [("TX_BASE".toList, 0x09), ("TX_NEXT".toList, 0x0A), ("TX_TOTAL".toList, 0x0B), ("RX_EXP".toList, 0x0C),
   ("RX_LEN".toList, 0x0D), ("TIMER".toList, 0x0E)]

/-- "Register operands may be written by name (`CFG_N`) or by index (`0x01`)" (R61). -/
def register (w : List Char) : Option Nat :=
  match registerNames.lookup w with
  | some k => some k
  | none => numberBelow 256 w

/-- `CFGWR <reg>, <value>`. -/
def cfgwrLine : List (List Char) → Option (List Event)
  | [r, v] =>
    match register r, numberBelow (2 ^ 32) v with
    | some k, some n => some [cfgwrEvent (BitVec.ofNat 8 k) (BitVec.ofNat 32 n)]
    | _, _ => none
  | _ => none

/-- RECV or UNPACK with its operand. -/
def frameLine (code : BitVec 4) (ws : List (List Char)) : Option (List Event) :=
  match frameArgs ws with
  | some (n, bs) => some [{ Event.plain code with len := n, data := bs }]
  | none => none

/-- `PACK [<7 header bytes>], [<payload bytes>]`. -/
def packLine (ws : List (List Char)) : Option (List Event) :=
  match byteString ws with
  | some (hdr, rest) =>
    if hdr.length = Config.headerSize then
      match payloadArgs rest with
      | some (n, bs) => some [{ Event.plain 5 with len := n, data := hdr ++ bs }]
      | none => none
    else none
  | none => none

/-- `RSV <code>` for a code in 7..15. -/
def rsvLine : List (List Char) → Option (List Event)
  | [w] =>
    match numberBelow 16 w with
    | some n => if 7 ≤ n then some [Event.plain (BitVec.ofNat 4 n)] else none
    | none => none
  | _ => none

/-- `ACKIN <a>` (R62). -/
def ackInLine : List (List Char) → Option (List Event)
  | [w] => (numberBelow 256 w).map fun n => [ackIn (BitVec.ofNat 8 n)]
  | _ => none

/-- `DATAIN <s>, [<payload>]` and `RTXIN <s>, [<payload>]` (R62), by the event each stands for. -/
def dataLine (event : Byte → List Byte → Event) : List (List Char) → Option (List Event)
  | w :: ws =>
    match numberBelow 256 w, byteString ws with
    | some n, some (bs, []) =>
      if bs.length ≤ Config.chunkSize then some [event (BitVec.ofNat 8 n) bs] else none
    | _, _ => none
  | [] => none

/-- `TICKS <n>` (R62). -/
def ticksLine : List (List Char) → Option (List Event)
  | [w] => (number w).map ticks
  | _ => none

/-- An operation without operands. -/
def bareLine (code : BitVec 4) : List (List Char) → Option (List Event)
  | [] => some [Event.plain code]
  | _ => none

/-- The operations of R61, by mnemonic. -/
def operationLine (m : List Char) (ws : List (List Char)) : Option (List Event) :=
  if m = "NOP".toList then bareLine 0 ws
  else if m = "CFGWR".toList then cfgwrLine ws
  else if m = "START".toList then bareLine 2 ws
  else if m = "TICK".toList then bareLine 3 ws
  else if m = "RECV".toList then frameLine 4 ws
  else if m = "PACK".toList then packLine ws
  else if m = "UNPACK".toList then frameLine 6 ws
  else if m = "RSV".toList then rsvLine ws
  else none

/-- The pseudo-instructions of R62, by mnemonic. -/
def pseudoLine (m : List Char) (ws : List (List Char)) : Option (List Event) :=
  if m = "CLOSE".toList then (if ws = [] then some [closeEvent] else none)
  else if m = "ACKIN".toList then ackInLine ws
  else if m = "DATAIN".toList then dataLine dataIn ws
  else if m = "RTXIN".toList then dataLine rtxIn ws
  else if m = "TICKS".toList then ticksLine ws
  else none

/-- One line (R61): "One event per line, mnemonic first, operands after"; an empty line stands for no event. -/
def assembleLine (line : List Char) : Option (List Event) :=
  match tokens [] (stripComment line) with
  | [] => some []
  | m :: ws =>
    match operationLine m ws with
    | some es => some es
    | none => pseudoLine m ws

end Sys2Proof.Machine
end

