-- ==== Sys2Proof/Tests/Slice0.lean ====
section
/-! SUPPORT. Tests. Expected values come from spec/ (the rule or the vector of spec/95_test_vectors.md is named) or are
worked by hand from its tables. The last section shows, for every statement with hypotheses, states and operands that
meet them. -/

namespace Sys2Proof.Tests

open Sys2Proof Sys2Proof.Machine

/-! ### Small states -/

/-- `TXBUF[i] = i mod 256` for `i < n` (spec/95_test_vectors.md section 0). -/
def bufferOf (n : Nat) : Memory := (List.range n).map fun i => (i, BitVec.ofNat 8 i)

/-- Reset, but for the control state. -/
def inState (c : ControlState) : State := { State.reset with ctl := c }

/-- A sender about to start: `CFG_N = 1`, 65 bytes. -/
def loaded : State := { State.reset with cfgN := 1, txLen := 65, txbuf := bufferOf 65 }

/-- That sender after START: `N = 1`, `T = 2`, two frames, frame 0 sent. -/
def sender : State :=
  { State.reset with
    cfgN := 1, cfgT := 2, txLen := 65, txbuf := bufferOf 65, ctl := .txWait, txNext := 1, txTotal := 2 }

/-- A receiver after START. -/
def receiver : State := { State.reset with cfgRole := 1, ctl := .rxWait }

/-- A clock cycle in which nothing is asked. -/
def quietCycle : CycleIn where
  rst      := false
  ev       := none
  outReady := false
  txWrite  := none
  regRead  := none
  txRead   := none
  rxRead   := none

/-- The next state, if there is one. -/
def after (o : Host.Outcome State Fault Refusal) : Option State :=
  match o with
  | .next t => some t
  | .fault _ => none
  | .refused _ => none

/-- What a run of requests emits, and its last state. -/
def ran (o : Host.Outcome (State × List Output) Fault Refusal) : Option (State × List Output) :=
  match o with
  | .next r => some r
  | .fault _ => none
  | .refused _ => none

/-- STATUS as the read port shows it and the outputs of one operation. -/
def effect (o : Host.Outcome State Fault Refusal) : Option (Nat × List Output) :=
  (after o).map fun t => ((readReg t 8).toNat, t.outq)

/-! ### Well-formedness: an ill-formed term for each check -/

theorem test_wf_rejects_txRecv_length : (Instr.txRecv 3 [1, 2]).wellFormed = false := by decide
theorem test_wf_rejects_rxRecv_bytes_of_a_long_frame : (Instr.rxRecv 72 [1]).wellFormed = false := by decide
theorem test_wf_rejects_unpack_length : (Instr.unpack 0 [1]).wellFormed = false := by decide
theorem test_wf_rejects_pack_length :
    (Instr.pack 2 { sp := 0, dp := 0, seq := 0, ack := 0, doff := 7, win := 0, rtx := 0 } [1]).wellFormed = false := by
  decide
theorem test_wf_rejects_pack_bytes_of_a_long_payload :
    (Instr.pack 65 { sp := 0, dp := 0, seq := 0, ack := 0, doff := 7, win := 0, rtx := 0 } [1]).wellFormed = false := by
  decide
theorem test_wf_rejects_rsv8F_of_another_row : (Instr.rsv8F 7).wellFormed = false := by decide
theorem test_wf_accepts_long_lengths :
    (Instr.unpack 127 []).wellFormed = true ∧ (Instr.rsv8F 15).wellFormed = true := by decide

/-! ### Decoding: images written out from R53 and R54, for every row -/

/-- The context of R57 in which a receiver waits. -/
def inRxWait : Selector := { state := .rxWait, role := 1, startOk := true }

theorem test_decode_nop : decode Selector.reset (0x00 :: List.replicate 77 0) = .ok .nop := by decide
theorem test_decode_cfgwr :
    decode Selector.reset ([0x01, 0x06, 0x78, 0x56, 0x34, 0x12, 0x00] ++ List.replicate 71 0) =
      .ok (.cfgwr 6 0x12345678) := by decide
theorem test_decode_start :
    decode { state := .error, role := 0, startOk := true } (0x02 :: List.replicate 77 0) = .ok .start ∧
    decode { state := .idle, role := 2, startOk := false } (0x02 :: List.replicate 77 0) = .ok .start := by decide
theorem test_decode_txStart : decode Selector.reset (0x02 :: List.replicate 77 0) = .ok .txStart := by decide
theorem test_decode_rxStart :
    decode { state := .rxDone, role := 1, startOk := true } (0x02 :: List.replicate 77 0) = .ok .rxStart := by decide
theorem test_decode_ticks :
    decode Selector.reset (0x03 :: List.replicate 77 0) = .ok .txTick ∧
    decode inRxWait (0x03 :: List.replicate 77 0) = .ok .rxTick := by decide
theorem test_decode_recvs :
    decode { state := .txWait, role := 0, startOk := true }
      ([0x04, 0, 0, 0, 0, 0, 0x07] ++ [0, 0, 0, 0x80, 7, 0, 0] ++ List.replicate 64 0xEE) =
      .ok (.txRecv 7 [0, 0, 0, 0x80, 7, 0, 0]) ∧
    decode inRxWait ([0x04, 0, 0, 0, 0, 0, 0x00] ++ List.replicate 71 0xEE) = .ok (.rxRecv 0 []) := by decide
theorem test_decode_pack :
    decode Selector.reset
      ([0x05, 0, 0, 0, 0, 0, 0x02] ++ [1, 2, 3, 4, 7, 0, 0xFF, 0xAA, 0xBB] ++ List.replicate 62 0) =
      .ok (.pack 2 { sp := 1, dp := 2, seq := 3, ack := 4, doff := 7, win := 0, rtx := 0xFF } [0xAA, 0xBB]) := by
  decide
theorem test_decode_unpack :
    decode Selector.reset ([0x06, 0, 0, 0, 0, 0, 0x48] ++ List.replicate 71 0x11) = .ok (.unpack 72 []) := by decide
theorem test_decode_reserved :
    decode Selector.reset (0x07 :: List.replicate 77 0) = .ok .rsv7 ∧
    decode Selector.reset (0x08 :: List.replicate 77 0) = .ok (.rsv8F 8) ∧
    decode Selector.reset (0x0F :: List.replicate 77 0) = .ok (.rsv8F 15) := by decide
theorem test_decode_rejects :
    decode Selector.reset (0x10 :: List.replicate 77 0) = .error .codeBits ∧
    decode Selector.reset ([0x04, 0, 0, 0, 0, 0, 0x80] ++ List.replicate 71 0) = .error .lenBit ∧
    decode Selector.reset (List.replicate 77 0) = .error .length ∧ decode Selector.reset [] = .error .length := by decide

theorem test_selector_reset : selectorOf State.reset = Selector.reset := by decide

/-- The event placed by `withFetchWord` is the one the next step runs: START on reset's empty input (R107's example). -/
theorem test_withFetchWord_start : effect (step (State.reset.withFetchWord 8 2)) = some (0x02, [.close]) := by decide

/-- Placing an image that is no event changes nothing (log entry 3). -/
theorem test_withFetchWord_no_event : State.reset.withFetchWord 8 0x12 = State.reset := by decide

/-! ### The assembler (R61, R62; the encodings are those of programs P1 to P3) -/

theorem test_assemble_cfgwr :
    assembleLine "CFGWR CFG_N, 2".toList = some [{ code := 1, reg := 1, val := 2, len := 0, data := [] }] := by decide
theorem test_assemble_datain :
    assembleLine "DATAIN 2, [A2] ; P1 line 4".toList = assembleLine "DATAIN 0x02, [a2]".toList ∧
    assembleLine "DATAIN 2, [A2] ; P1 line 4".toList =
      some [{ code := 4, reg := 0, val := 0, len := 8, data := [0, 0, 2, 0, 7, 0, 0, 0xA2] }] := by decide
theorem test_assemble_pack :
    assembleLine "PACK [11 22 05 FF 07 00 03], [01 02]".toList =
      some [{ code := 5, reg := 0, val := 0, len := 2, data := [0x11, 0x22, 5, 0xFF, 7, 0, 3, 1, 2] }] := by decide
theorem test_assemble_lengths :
    assembleLine "UNPACK len=72".toList = some [{ code := 6, reg := 0, val := 0, len := 72, data := [] }] ∧
    assembleLine "CLOSE".toList = assembleLine "RECV []".toList ∧
    assembleLine "TICKS 3".toList = some [Event.plain 3, Event.plain 3, Event.plain 3] := by decide
theorem test_assemble_rejects :
    assembleLine "RSV 6".toList = none ∧ assembleLine "CFGWR 0x100, 0".toList = none ∧
    assembleLine "RECV [1]".toList = none ∧ assembleLine "START 1".toList = none := by decide

/-! ### One step of each operation, from spec/95_test_vectors.md -/

/-- V-K22, R104: NOP is not a tick. -/
theorem test_nop : after (exec .nop { sender with timer := 1 }) = some { sender with timer := 1 } := by decide
/-- V-K1: 264 is stored as 8. -/
theorem test_cfgwr_truncates :
    (after (exec (.cfgwr 1 264) State.reset)).map (fun t => (readReg t 1).toNat) = some 8 := by decide
/-- V-K4 and V-K16: index 0x07 faults; in a wait state CFGWR faults, closes, and discards the write. -/
theorem test_cfgwr_faults :
    effect (exec (.cfgwr 7 0) State.reset) = some (0x27, []) ∧
    (after (exec (.cfgwr 1 4) receiver)).map (fun t => ((readReg t 8).toNat, t.outq, t.cfgN.toNat)) =
      some (0x27, [.close], 8) := by decide
/-- V-K7 and V-K9: role 2; `N = 128`. -/
theorem test_start_invalid_mode :
    effect (exec .start { State.reset with cfgRole := 2 }) = some (0x17, []) ∧
    effect (exec .start { State.reset with cfgN := 128 }) = some (0x17, []) := by decide
/-- V-K15: START in a wait state. -/
theorem test_start_open : effect (exec .start receiver) = some (0x27, [.close]) := by decide
/-- V-T3a: one byte, `N = 1`. -/
theorem test_txStart :
    (after (exec .txStart { State.reset with cfgN := 1, txLen := 1, txbuf := [(0, 0)] })).map
        (fun t => (t.ctl, t.txBase.toNat, t.txNext.toNat, t.txTotal.toNat, t.outq)) =
      some (.txWait, 0, 1, 1, [.send [0, 0, 0, 0, 7, 0, 0, 0]]) := by decide
/-- R36: an unwritten byte below `TX_LEN` stops the model. -/
theorem test_txStart_unwritten :
    (match exec .txStart { State.reset with txLen := 2, txbuf := [(0, 5)] } with
      | .fault f => f == .unwrittenTxByte 1
      | .next _ => false
      | .refused _ => false) = true := by decide
/-- V-K13: the receiver checks neither `N` nor `T` nor `TX_LEN`. -/
theorem test_rxStart :
    effect (exec .rxStart { State.reset with cfgRole := 1, cfgN := 0, cfgT := 0, txLen := 0xFFFFFFFF }) =
      some (0x03, []) := by decide
/-- V-T7a and V-T8: a tick counts; with `T = 1` every tick re-sends the outstanding frames with flag 1. -/
theorem test_txTick :
    (after (exec .txTick sender)).map (fun t => (t.timer.toNat, t.outq)) = some (1, []) ∧
    (after (exec .txTick { sender with cfgT := 1, txBase := 1, txNext := 2 })).map
        (fun t => (t.timer.toNat, t.txBase.toNat, t.outq)) =
      some (0, 1, [.send [0, 0, 1, 0, 7, 0, 1, 64]]) := by decide
/-- V-RX10: with `TR = 3` the third tick restarts the wait and emits nothing. -/
theorem test_rxTick :
    (after (exec .rxTick { receiver with cfgTr := 3, timer := 1 })).map (fun t => (t.timer.toNat, t.outq)) = some (2, []) ∧
    (after (exec .rxTick { receiver with cfgTr := 3, timer := 2 })).map (fun t => (t.timer.toNat, t.outq)) =
      some (0, []) := by decide
/-- V-T13 (R89): an ACK that names an index past the last frame completes the transfer. -/
theorem test_txRecv_past_the_end :
    (after (exec (.txRecv 7 [0, 0, 0, 7, 7, 0, 0])
        { State.reset with txLen := 130, ctl := .txWait, txNext := 3, txTotal := 3 })).map
        (fun t => (t.ctl, t.txBase.toNat, t.txNext.toNat, t.outq)) = some (.txDone, 8, 3, [.close]) := by decide
/-- V-T12's shape on two frames: the base advances and the next frame is sent with flag 0; and V-T17. -/
theorem test_txRecv_fills :
    (after (exec (.txRecv 7 [0, 0, 0, 0, 7, 0, 0]) { sender with timer := 1 })).map
        (fun t => (t.txBase.toNat, t.txNext.toNat, t.timer.toNat, t.outq)) =
      some (1, 2, 0, [.send [0, 0, 1, 0, 7, 0, 0, 64]]) ∧
    effect (exec (.txRecv 0 []) sender) = some (0x37, [.close]) := by decide
/-- V-RX6: `RX_EXP` wraps from 255 to 0 and the ACK carries 255. -/
theorem test_rxRecv_wraps :
    (after (exec (.rxRecv 8 [0, 0, 0xFF, 0, 7, 0, 0, 0x44]) { receiver with rxExp := 255, rxLen := 3 })).map
        (fun t => (t.rxExp.toNat, t.rxLen.toNat, Memory.read t.rxbuf 3, t.outq)) =
      some (0, 4, some 0x44, [.send [0, 0, 0, 0xFF, 7, 0, 0]]) := by decide
/-- V-RX1 and V-RX5: a frame ahead is discarded with the last ACK; a malformed one sets MALF only. -/
theorem test_rxRecv_drops :
    (after (exec (.rxRecv 8 [0, 0, 1, 0, 7, 0, 0, 9]) receiver)).map
        (fun t => (t.rxExp.toNat, t.rxLen.toNat, t.rxbuf, t.outq)) = some (0, 0, [], [.send [0, 0, 0, 0xFF, 7, 0, 0]]) ∧
    (after (exec (.rxRecv 6 [1, 2, 3, 4, 5, 6]) { receiver with timer := 4 })).map
        (fun t => ((readReg t 8).toNat, t.timer.toNat, t.outq)) = some (0x0B, 4, []) := by decide
/-- V-C1. -/
theorem test_pack :
    (after (exec (.pack 2 { sp := 1, dp := 2, seq := 3, ack := 4, doff := 7, win := 0, rtx := 0xFF } [0xAA, 0xBB])
        (inState .error))).map State.outq =
      some [.result .frame [1, 2, 3, 4, 7, 0, 1, 0xAA, 0xBB]] := by decide
/-- V-C4. -/
theorem test_pack_badlen :
    (after (exec (.pack 65 { sp := 0, dp := 0, seq := 0, ack := 0, doff := 7, win := 0, rtx := 0 } [])
        State.reset)).map State.outq = some [.result .badLen []] := by decide
/-- V-C8. -/
theorem test_unpack :
    (after (exec (.unpack 8 [0, 0, 5, 0, 7, 0, 3, 0x41]) State.reset)).map State.outq =
      some [.result .frame [0, 0, 5, 0, 7, 0, 1, 0x41]] := by decide
/-- V-C6, V-C7b and V-C10. -/
theorem test_unpack_no_frame :
    (after (exec (.unpack 0 []) State.reset)).map State.outq = some [.result .noFrame []] ∧
    (after (exec (.unpack 6 [1, 2, 3, 4, 5, 6]) State.reset)).map State.outq = some [.result .malformed []] ∧
    (after (exec (.unpack 72 []) State.reset)).map State.outq = some [.result .malformed []] := by decide
/-- R109 in `TX_WAIT`, and R111. -/
theorem test_rsv7 :
    effect (exec .rsv7 sender) = some (0x27, [.close]) ∧ effect (exec .rsv7 (inState .error)) = some (0x07, []) := by
  decide
/-- V-K17 and V-K18. -/
theorem test_rsv9 :
    effect (exec (.rsv8F 9) receiver) = some (0x27, [.close]) ∧ effect (exec (.rsv8F 9) State.reset) = some (0x27, []) := by
  decide

/-- V-Z1, R127, R128: a reset in `TX_WAIT` emits no Close and keeps `TXBUF`. -/
theorem test_reset :
    after (applyInput .rst { sender with outq := [.close] }) = some { State.reset with txbuf := bufferOf 65 } := by decide

/-- V-X4: `STATUS` of a fault with MALF set is 0x2F. -/
theorem test_status_of_fault :
    effect (exec (.cfgwr 1 4) { receiver with malf := true }) = some (0x2F, [.close]) := by decide

/-- R60: the four result codes on `out_code`, and R59: `out_kind` and `out_len`. -/
theorem test_output_port :
    [ResultCode.frame, .noFrame, .malformed, .badLen].map (fun c => (outputFields (.result c [])).code.toNat) = [0, 1, 2, 3] ∧
    [Output.send [1, 2, 3, 4, 7, 0, 0], .close, .result .frame [1, 2, 3, 4, 7, 0, 1, 9]].map
        (fun o => ((outputFields o).kind.toNat, (outputFields o).len.toNat)) = [(0, 7), (1, 0), (2, 8)] := by decide

/-- R133 with R132: a host holds its event through a reset cycle; it is free once the event is accepted. -/
theorem test_holdsEvent :
    (let c : CycleIn := { quietCycle with rst := true, ev := some (Event.plain 2) }
     ¬ holdsEvent c quietCycle State.reset ∧ holdsEvent c c State.reset) ∧
    holdsEvent { quietCycle with ev := some (Event.plain 2) } quietCycle State.reset :=
  ⟨⟨fun h => absurd (h rfl rfl) (by decide), fun _ _ => rfl⟩, fun _ h => absurd h (by decide)⟩

/-- R140: a close still under way does not keep a connection from having ended well; a frame does. -/
theorem test_connectionEndedWell :
    (let c : Connection := { snd := inState .txDone, rcv := inState .rxDone, toRcv := [], toSnd := [.close] }
     connectionEndedWell c = true ∧ connectionEndedWell { c with toSnd := [.frame [0, 0, 0, 0, 7, 0, 0], .close] } = false) := by
  decide

/-- R132: with the queue empty the event is accepted and its Close is queued; the next cycle shows it. -/
theorem test_cycle_accepts :
    (match runCycles [{ quietCycle with ev := some (Event.plain 2) }, quietCycle] State.reset with
      | .next r => r.1.outq == [.close] && r.2.map CycleOut.evReady == [true, false] &&
          r.2.map CycleOut.accepted == [some (Event.plain 2), none] && r.2.map CycleOut.shown == [none, some .close]
      | .fault _ => false
      | .refused _ => false) = true := by decide

/-- R132: with an output queued the event is not accepted and the head leaves. -/
theorem test_cycle_queue :
    (match cycle { quietCycle with ev := some (Event.plain 2), outReady := true } { State.reset with outq := [.close, .close] } with
      | .next r => r.1.outq == [.close] && r.1.ctl == .idle && !r.2.evReady && r.2.left == some .close
      | .fault _ => false
      | .refused _ => false) = true := by decide

/-! ### Witnesses: the hypotheses of every statement are met -/

/-- One frame that fills the port: 7 header bytes and 64 payload bytes. -/
def longFrame : List Byte := List.replicate 71 0x55

theorem bufferOf_written (x : Nat) (h : x < 65) : (Memory.read (bufferOf 65) x).isSome = true := by
  revert x
  decide

theorem small_fits {n : Nat} (h : n < 100) : n ≤ Config.maxLen := by
  have hge := maxLen_ge
  simp only [Config.minMaxLen] at hge
  omega

theorem written_65 {s : State} (hb : s.txbuf = bufferOf 65) (hl : s.txLen = 65) (a b : Nat) : framesWritten s a b := by
  intro x _ h
  rw [hl] at h
  rw [hb]
  exact bufferOf_written x (by simp at h; omega)

theorem legal_loaded : senderConfigLegal loaded :=
  ⟨by decide, by decide, by decide, small_fits (by decide)⟩

theorem test_witness_DecodeEncodeRoundTrip :
    (∀ i ∈ [Instr.rxRecv 71 longFrame, .rxRecv 0 [], .rxRecv 127 [], .rxTick, .cfgwr 255 0xFFFFFFFF],
      i.wellFormed = true ∧ i.rowHolds inRxWait = true) ∧
    Instr.start.rowHolds inRxWait = true ∧ Instr.txStart.rowHolds Selector.reset = true ∧
    Instr.rxStart.rowHolds { state := .idle, role := 1, startOk := true } = true := by decide

theorem test_witness_DecodeGivesTheRowThatHolds :
    decode Selector.reset (0x02 :: List.replicate 77 0) = .ok .txStart ∧
    Instr.txStart.wellFormed = true ∧ Instr.txStart.rowHolds Selector.reset = true ∧
    encode .txStart = 0x02 :: List.replicate 77 0 := by decide

theorem test_witness_EventRunsTheTableEntry :
    (inState .idle).ctl.ready = true ∧ (inState .txDone).ctl.ready = true ∧ (inState .rxDone).ctl.ready = true ∧
    connectionOpen (inState .txWait).ctl = true ∧ connectionOpen (inState .rxWait).ctl = true ∧
    connectionOpen (inState .error).ctl = false ∧
    ((inState .idle).cfgRole = 0 ∧ senderConfigOk (inState .idle) = true) ∧
    senderConfigOk { State.reset with cfgN := 0 } = false ∧
    receiverConfigOk { State.reset with cfgRole := 1 } = true ∧
    receiverConfigOk { State.reset with cfgRole := 1, cfgTr := 0 } = false ∧
    ({ State.reset with cfgRole := 2 } : State).cfgRole ≠ 0 ∧ ({ State.reset with cfgRole := 3 } : State).cfgRole ≠ 1 := by
  decide

theorem test_witness_StepRunsTheDecodedEvent :
    decode (selectorOf sender) (encodeEvent (Event.plain 3)) = .ok .txTick ∧
    decode (selectorOf State.reset) (imageOfWord 8 2) = .ok .txStart ∧ State.reset.inputs = [] ∧
    (State.reset.withFetchWord 8 2).inputs = [.event { Event.plain 2 with data := List.replicate 71 0 }] := by decide

theorem test_witness_RowsOfOneEventAgree :
    encode .txTick = encode .rxTick ∧ encode .start = encode .txStart ∧
    encode (.txRecv 71 longFrame) = encode (.rxRecv 71 longFrame) ∧ (Instr.rxRecv 71 longFrame).wellFormed = true := by
  decide

theorem test_witness_UnpackJudgesByLength : longFrame.length = 71 ∧ (longFrame.take 7).length = 7 := by decide

theorem test_witness_UnpackInvertsPack :
    (let f : Frame := { sp := 0, dp := 255, seq := 255, ack := 0, doff := 7, win := 255, rtx := -3, payload := longFrame.drop 7 }
     0 ≤ f.sp ∧ f.sp < 256 ∧ 0 ≤ f.dp ∧ f.dp < 256 ∧ 0 ≤ f.seq ∧ f.seq < 256 ∧ 0 ≤ f.ack ∧ f.ack < 256 ∧
      0 ≤ f.doff ∧ f.doff < 256 ∧ 0 ≤ f.win ∧ f.win < 256 ∧ f.payload.length ≤ 64) ∧
    (7 ≤ longFrame.length ∧ longFrame.length ≤ 71) := by decide

theorem test_witness_PackEmitsOneResult :
    ((64 : BitVec 7).toNat ≤ 64 ∧ (longFrame.drop 7).length = (64 : BitVec 7).toNat) ∧ 64 < (65 : BitVec 7).toNat := by
  decide

theorem test_witness_UnpackEmitsOneResult :
    isMalformedLength 1 ∧ isMalformedLength 6 ∧ isMalformedLength 72 ∧ isMalformedLength 127 ∧
    isFrameOperand 7 (longFrame.take 7) ∧ isFrameOperand 71 longFrame :=
  ⟨.inl (by decide), .inl (by decide), .inr (by decide), .inr (by decide),
    ⟨by decide, by decide, by decide⟩, ⟨by decide, by decide, by decide⟩⟩

theorem test_witness_CfgwrWritesOneRegister :
    (inState .rxDone).ctl.ready = true ∧ (6 : BitVec 8).toNat ≤ 6 ∧ 6 < (7 : BitVec 8).toNat ∧
    connectionOpen (inState .txWait).ctl = true ∧ (inState .error).ctl = .error := by decide

/-- Two frames with a window of one; and an empty input. -/
theorem test_witness_StartOpensTheSender :
    (loaded.ctl.ready = true ∧ loaded.cfgRole = 0 ∧ senderConfigLegal loaded ∧ 2 = (loaded.txLen.toNat + 63) / 64 ∧
      1 = min loaded.cfgN.toNat 2 ∧ framesWritten loaded 0 1) ∧
    (State.reset.ctl.ready = true ∧ State.reset.cfgRole = 0 ∧ senderConfigLegal State.reset ∧
      0 = (State.reset.txLen.toNat + 63) / 64 ∧ 0 = min State.reset.cfgN.toNat 0 ∧ framesWritten State.reset 0 0) :=
  ⟨⟨by decide, by decide, legal_loaded, by decide, by decide, written_65 rfl rfl 0 1⟩,
    ⟨by decide, by decide, ⟨by decide, by decide, by decide, Nat.zero_le _⟩, by decide, by decide,
      fun x _ h => absurd h (by simp)⟩⟩

theorem test_witness_StartOpensTheReceiver :
    (let s : State := { State.reset with cfgRole := 1, cfgTr := 1 }
     s.ctl.ready = true ∧ s.cfgRole = 1 ∧ s.cfgTr ≠ 0) := by decide

theorem test_witness_StartRejectsABadConfiguration :
    ¬ senderConfigLegal { State.reset with cfgN := 0 } ∧ ¬ senderConfigLegal { State.reset with cfgN := 128 } ∧
    ¬ senderConfigLegal { State.reset with cfgT := 0 } ∧ ¬ senderConfigLegal { State.reset with txLen := 0x01000001 } :=
  ⟨fun h => absurd h.1 (by decide), fun h => absurd h.2.1 (by decide), fun h => absurd rfl h.2.2.1,
    fun h => absurd (Nat.le_trans h.2.2.2 maxLen_le) (by decide)⟩

theorem test_witness_ConfigurationIsConstantWhileOpen :
    connectionOpen sender.ctl = true ∧ (after (exec .txTick sender)).isSome = true ∧
    connectionOpen receiver.ctl = true := by decide

theorem test_witness_ReservedCodesFault : sender.ctl ≠ .error ∧ (inState .error).ctl = .error := by decide

theorem test_witness_NoConnectionIgnoresTickAndRecv :
    (inState .idle).ctl = .idle ∧ (inState .txDone).ctl = .txDone ∧ (inState .rxDone).ctl = .rxDone := by decide

theorem test_witness_OnlyResetLeavesError :
    (inState .error).ctl = .error ∧ after (applyInput .rst (inState .error)) = some State.reset ∧
    (after (applyInput (.event (Event.plain 2)) (inState .error))).isSome = true := by decide

/-- Short of the timeout, and at it. -/
theorem test_witness_SenderTickCountsAndTimesOut :
    sender.ctl = .txWait ∧ 1 = min (sender.txBase.toNat + sender.cfgN.toNat) sender.txTotal.toNat ∧
    sender.timer.toNat + 1 < sender.cfgT.toNat ∧
    (let s : State := { sender with timer := 1 }
     s.cfgT.toNat ≤ s.timer.toNat + 1 ∧ framesWritten s s.txBase.toNat 1) :=
  ⟨by decide, by decide, by decide, by decide, written_65 rfl rfl 0 1⟩

/-- `dist = N`, the least distance that is invalid. -/
theorem test_witness_SenderIgnoresAnInvalidAck :
    sender.ctl = .txWait ∧ isFrameOperand 7 [0, 0, 0, 1, 7, 0, 0] ∧
    sender.cfgN.toNat ≤ wireAckDistance sender [0, 0, 0, 1, 7, 0, 0] :=
  ⟨by decide, ⟨by decide, by decide, by decide⟩, by decide⟩

/-- `dist = N - 1`, the greatest that is valid. -/
theorem test_witness_SenderFillsTheWindowOnAValidAck :
    (let raw : List Byte := [0, 0, 0, 0, 7, 0, 0]
     sender.ctl = .txWait ∧ isFrameOperand 7 raw ∧ wireAckDistance sender raw < sender.cfgN.toNat ∧
      1 = sender.txBase.toNat + wireAckDistance sender raw + 1 ∧ 1 < sender.txTotal.toNat ∧
      2 = min (1 + sender.cfgN.toNat) sender.txTotal.toNat ∧ framesWritten sender sender.txNext.toNat 2) :=
  ⟨by decide, ⟨by decide, by decide, by decide⟩, by decide, by decide, by decide, by decide, written_65 rfl rfl 1 2⟩

/-- The last frame's ACK. -/
theorem test_witness_SenderCompletesOnTheLastAck :
    (let s : State := { sender with txBase := 1, txNext := 2 }
     let raw : List Byte := [0, 0, 0, 1, 7, 0, 0]
     s.ctl = .txWait ∧ isFrameOperand 7 raw ∧ wireAckDistance s raw < s.cfgN.toNat ∧
      2 = s.txBase.toNat + wireAckDistance s raw + 1 ∧ s.txTotal.toNat ≤ 2) :=
  ⟨by decide, ⟨by decide, by decide, by decide⟩, by decide, by decide, by decide⟩

theorem test_witness_MalformedFramesOnlySetMalf :
    isMalformedLength 6 ∧ isMalformedLength 72 ∧ sender.ctl = .txWait ∧ receiver.ctl = .rxWait :=
  ⟨.inl (by decide), .inr (by decide), by decide, by decide⟩

theorem test_witness_SenderRetransmitsWithoutLimit :
    sender.ctl = .txWait ∧ sender.timer = 0 ∧ sender.cfgT ≠ 0 ∧
    1 = min (sender.txBase.toNat + sender.cfgN.toNat) sender.txTotal.toNat ∧
    framesWritten sender sender.txBase.toNat 1 :=
  ⟨by decide, by decide, by decide, by decide, written_65 rfl rfl 0 1⟩

/-- Both ends of the buffer: an empty one, and one with room for exactly the payload. -/
theorem test_witness_ReceiverAcceptsTheExpectedFrame :
    (let raw : List Byte := [0, 0, 0, 0, 7, 0, 0, 0x41]
     receiver.ctl = .rxWait ∧ isFrameOperand 8 raw ∧ raw.getD 2 0 = receiver.rxExp ∧
      receiver.rxLen.toNat + ((8 : BitVec 7).toNat - 7) ≤ Config.maxLen) ∧
    ∃ s : State, s.ctl = .rxWait ∧ s.rxExp = 0 ∧ s.rxLen.toNat + ((8 : BitVec 7).toNat - 7) = Config.maxLen := by
  have hge := maxLen_ge
  have hle := maxLen_le
  simp only [Config.minMaxLen] at hge
  refine ⟨⟨by decide, ⟨by decide, by decide, by decide⟩, by decide, small_fits (by decide)⟩, ?_⟩
  refine ⟨{ receiver with rxLen := BitVec.ofNat 32 (Config.maxLen - 1) }, rfl, rfl, ?_⟩
  have h8 : (8 : BitVec 7).toNat - 7 = 1 := by decide
  dsimp only
  rw [ofNat_index (by omega), h8]
  omega

theorem test_witness_ReceiverDiscardsAnyOtherFrame :
    (let raw : List Byte := [0, 0, 0xFF, 0, 7, 0, 0]
     receiver.ctl = .rxWait ∧ isFrameOperand 7 raw ∧ raw.getD 2 0 ≠ receiver.rxExp) :=
  ⟨by decide, ⟨by decide, by decide, by decide⟩, by decide⟩

theorem test_witness_ReceiverAcknowledgesEveryFrame :
    (after (exec (.rxRecv 8 [0, 0, 0, 0, 7, 0, 0, 1]) receiver)).map State.ctl = some .rxWait ∧
    (after (exec (.rxRecv 7 [0, 0, 9, 0, 7, 0, 0]) receiver)).map State.ctl = some .rxWait ∧
    (after (exec (.rxRecv 0 []) receiver)).isSome = true ∧ (after (exec (.rxRecv 6 [1, 2, 3, 4, 5, 6]) receiver)).isSome = true := by
  decide

/-- V-RX13's shape: the buffer is full and one more byte comes. -/
theorem test_witness_ReceiverFaultsOnOverflow :
    ∃ (s : State) (raw : List Byte), s.ctl = .rxWait ∧ isFrameOperand 8 raw ∧ raw.getD 2 0 = s.rxExp ∧
      Config.maxLen < s.rxLen.toNat + ((8 : BitVec 7).toNat - 7) := by
  have hle := maxLen_le
  refine ⟨{ receiver with rxLen := BitVec.ofNat 32 Config.maxLen }, [0, 0, 0, 0, 7, 0, 0, 1], rfl,
    ⟨by decide, by decide, by decide⟩, by decide, ?_⟩
  have h8 : (8 : BitVec 7).toNat - 7 = 1 := by decide
  dsimp only
  rw [ofNat_index (by omega), h8]
  omega

theorem test_witness_SenderFaultsOnPeerClose : sender.ctl = .txWait := by decide
theorem test_witness_ReceiverEndsOnPeerClose : receiver.ctl = .rxWait := by decide
/-- Short of the timeout, and at it. -/
theorem test_witness_ReceiverTickOnlyCounts :
    receiver.ctl = .rxWait ∧ receiver.timer.toNat + 1 < receiver.cfgTr.toNat ∧
    ({ receiver with timer := 9 } : State).cfgTr.toNat ≤ ({ receiver with timer := 9 } : State).timer.toNat + 1 := by decide

/-- W4: the frames `[0, 2, 1]` give payload 0 then payload 1. -/
theorem test_witness_ReceiverAssemblesInOrder :
    (let frames : List (List Byte) := [[0, 0, 0, 0, 7, 0, 0, 0xA0], [0, 0, 2, 0, 7, 0, 0, 0xA2], [0, 0, 1, 0, 7, 0, 0, 0xA1]]
     receiver.ctl = .rxWait ∧ receiver.rxExp = 0 ∧ receiver.rxLen = 0 ∧
      (∀ f ∈ frames, 7 ≤ f.length ∧ f.length ≤ 71) ∧ (acceptedPayloads 0 frames).flatten = [0xA0, 0xA1] ∧
      (acceptedPayloads 0 frames).flatten.length ≤ Config.maxLen) :=
  ⟨by decide, by decide, by decide, by decide, by decide, small_fits (by decide)⟩

/-- The same with a tick, a malformed frame and a host write in between. -/
theorem test_witness_ReceiverAssemblesInOrder_any :
    (let as : List Input := [.event (dataIn 0 [0xA0]), .event (Event.plain 3), .event (recvBytes [1]), .writeTx 0 1,
      .event (dataIn 1 [0xA1])]
     as.all opensNothing = true ∧ as.filterMap deliveredFrame = [[0, 0, 0, 0, 7, 0, 0, 0xA0], [0, 0, 1, 0, 7, 0, 0, 0xA1]] ∧
      (ran (runInputs as receiver)).map (fun r => (r.1.ctl, r.1.rxbuf, r.2.length)) =
        some (.rxWait, [(0, 0xA0), (1, 0xA1)], 2)) := by decide

theorem test_witness_FaultEntryIsPrecise :
    sender.ctl ≠ .error ∧ (after (exec (.txRecv 0 []) sender)).map State.ctl = some .error ∧
    State.reset.ctl ≠ .error ∧ (after (exec .rsv7 State.reset)).map State.ctl = some .error := by decide

/-- Every cause occurs (RX_OVERFLOW by `test_witness_ReceiverFaultsOnOverflow`). -/
theorem test_witness_CausesNameTheirEvents :
    (after (exec .start { State.reset with cfgRole := 2 })).map State.cause = some .invalidMode ∧
    (after (exec (.cfgwr 7 0) State.reset)).map State.cause = some .illegalOp ∧
    (after (exec .start sender)).map State.cause = some .illegalOp ∧
    (after (exec (.rsv8F 8) State.reset)).map State.cause = some .illegalOp ∧
    (after (exec (.txRecv 0 []) sender)).map State.cause = some .peerClosed := by decide

theorem test_witness_MalfIsSticky :
    (after (exec (.txRecv 1 [0]) sender)).map State.malf = some true ∧ sender.malf = false ∧
    (after (exec .start { State.reset with malf := true })).map State.malf = some false ∧
    (after (applyInput .rst { State.reset with malf := true })).map State.malf = some false := by decide

theorem test_witness_RegisterReadPort :
    (match cycle { quietCycle with ev := some (cfgwrEvent 1 4), regRead := some 1 } State.reset with
      | .next r => r.1.cfgN == 4 && r.2.regData == some 8
      | .fault _ => false
      | .refused _ => false) = true := by decide

/-- The first and the last index, the first that does not exist, and a write that R134 refuses. -/
theorem test_witness_HostWritesOneTxbufByte :
    0 < Config.maxLen ∧ Config.maxLen - 1 < Config.maxLen ∧ Config.maxLen ≤ Config.maxLen ∧
    ¬ (sender.ctl = .txWait ∧ 65 < sender.txLen.toNat) ∧ (sender.ctl = .txWait ∧ 64 < sender.txLen.toNat) := by
  have hge := maxLen_ge
  simp only [Config.minMaxLen] at hge
  exact ⟨by omega, by omega, Nat.le_refl _, by decide, by decide⟩

theorem test_witness_HostReadsHaveNoEffect :
    (after (applyInput (.readReg 8) sender)).map State.reply = some (some (.word 1)) ∧
    (after (applyInput (.readTx 64) sender)).map State.reply = some (some (.byte 64)) ∧
    (after (applyInput (.readRx 0) { receiver with rxLen := 1, rxbuf := [(0, 7)] })).map State.reply =
      some (some (.byte 7)) ∧
    (after (applyInput (.readRx 1) { receiver with rxLen := 1, rxbuf := [(0, 7), (1, 9)] })).map State.draws =
      some 1 := by decide

/-- A byte nothing has written, read again after a START. -/
theorem test_witness_HostReadsHaveNoEffect_again :
    writesNothing (.event (Event.plain 2)) = true ∧ (after (applyInput (.readTx 3) State.reset)).isSome = true ∧
    (ran (runInputs [.event (Event.plain 2)] State.reset)).isSome = true := by decide

theorem test_witness_OperationsStopOnlyOnAnUnwrittenByte :
    (after (exec .txTick sender)).isSome = true ∧ after (exec .txStart { State.reset with txLen := 1 }) = none := by
  decide

/-- Byte 0, the first that START would send; and byte 64 in frame 1 at a timeout and at a fill. -/
theorem test_witness_SenderStopsAtAnUnwrittenByte :
    (let s : State := { State.reset with txLen := 1 }
     0 < s.txLen.toNat ∧ Memory.read s.txbuf 0 = none ∧ s.ctl.ready = true ∧ s.cfgRole = 0 ∧ senderConfigLegal s ∧
      0 < 64 * s.cfgN.toNat) ∧
    (let s : State := { sender with txbuf := bufferOf 64, txBase := 1, txNext := 2, timer := 1 }
     64 < s.txLen.toNat ∧ Memory.read s.txbuf 64 = none ∧ s.ctl = .txWait ∧ s.cfgT.toNat ≤ s.timer.toNat + 1 ∧
      64 * s.txBase.toNat ≤ 64 ∧ 64 < 64 * min (s.txBase.toNat + s.cfgN.toNat) s.txTotal.toNat) ∧
    (let s : State := { sender with txbuf := bufferOf 64 }
     let raw : List Byte := [0, 0, 0, 0, 7, 0, 0]
     isFrameOperand 7 raw ∧ wireAckDistance s raw < s.cfgN.toNat ∧
      1 = s.txBase.toNat + wireAckDistance s raw + 1 ∧ 1 < s.txTotal.toNat ∧ 64 * s.txNext.toNat ≤ 64 ∧
      64 < 64 * min (1 + s.cfgN.toNat) s.txTotal.toNat) :=
  ⟨⟨by decide, by decide, by decide, by decide, ⟨by decide, by decide, by decide, small_fits (by decide)⟩, by decide⟩,
    ⟨by decide, by decide, by decide, by decide, by decide, by decide⟩,
    ⟨⟨by decide, by decide, by decide⟩, by decide, by decide, by decide, by decide, by decide⟩⟩

theorem test_witness_ReceiverOnlyAppends :
    (after (exec (.rxRecv 8 [0, 0, 0, 0, 7, 0, 0, 1]) receiver)).map State.rxbuf = some [(0, 1)] ∧
    (after (applyInput (.writeTx 0 5) receiver)).isSome = true ∧ (after (applyInput .rst sender)).isSome = true ∧
    sender.ctl ≠ .rxWait := by decide

theorem test_witness_RolesKeepApart :
    (after (exec .txTick sender)).isSome = true ∧ (after (exec .rxTick receiver)).isSome = true ∧
    connectionOpen State.reset.ctl = false ∧ Instr.rsv7.code ≠ 2 ∧ (after (exec .rsv7 State.reset)).isSome = true := by
  decide

/-- The invariant holds of a sender in the middle of a transfer. -/
theorem test_sender_inv : sender.Inv := by
  have hge := maxLen_ge
  simp only [Config.minMaxLen] at hge
  have hr : ∀ a, (Memory.read (bufferOf 65) a).isSome = true → a < Config.maxLen := by
    intro a h
    have hall : ∀ p ∈ bufferOf 65, p.1 < 65 := by decide
    have hread : ∀ m : Memory, (∀ p ∈ m, p.1 < 65) → (Memory.read m a).isSome = true → a < 65 := by
      intro m
      induction m with
      | nil => intro _ h; cases h
      | cons p m ih =>
        intro hm h
        simp only [Memory.read] at h
        split at h
        · rename_i hk
          rw [← hk]
          exact hm p (by simp)
        · exact ih (fun q hq => hm q (by simp [hq])) h
    have := hread _ hall h
    omega
  have htot : (2 : Nat) ≤ ceilDiv Config.maxLen Config.chunkSize := by
    simp only [ceilDiv, Config.chunkSize]
    omega
  exact {
    txWf := by decide
    rxWf := by decide
    txRange := hr
    rxRange := fun a h => by cases h
    cause := by decide
    rxLen := Nat.zero_le _
    rxHeld := fun a h => absurd h (Nat.not_lt_zero a)
    total := htot
    next := by decide
    base := by decide
    timer := by decide
    sender := fun _ => {
      role := rfl
      config := by decide
      total := by decide
      base := by decide
      next := by decide
      timer := by decide
      written := fun a h => bufferOf_written a (Nat.lt_of_lt_of_le h (Nat.le_trans (Nat.min_le_right _ _) (by decide))) }
    receiver := fun h => by cases h
    sent := fun h => by cases h }

theorem test_witness_StepKeepsTheInvariant :
    sender.Inv ∧ (after (step sender)).isSome = true ∧ (after (applyInput (.event (Event.plain 3)) sender)).isSome = true :=
  ⟨test_sender_inv, by decide, by decide⟩

theorem test_witness_TicksNeverStop : sender.Inv ∧ sender.ctl = .txWait := ⟨test_sender_inv, rfl⟩

/-- One byte, written and sent. -/
theorem test_witness_ReachableWindowIsExact :
    (ran (runInputs (senderBoot [0x41] 8 10 0 0) State.reset)).map (fun r => r.1.ctl) = some .txWait := by decide

theorem test_witness_OutputsFitThePort :
    sender.Inv ∧ sender.outq = [] ∧ (after (acceptEvent closeEvent sender)).map State.outq = some [.close] ∧
    (after (acceptEvent (ackIn 0) sender)).map State.outq = some [.send [0, 0, 1, 0, 7, 0, 0, 64]] ∧
    (after (acceptEvent { Event.plain 6 with len := 71 } sender)).map
        (fun t => t.outq.map fun o => (outputFields o).len.toNat) = some [71] :=
  ⟨test_sender_inv, by decide, by decide, by decide, by decide⟩

theorem test_witness_OutputPortShowsTheFrame : longFrame.length ≤ 71 ∧ ([] : List Byte).length ≤ 71 := by decide

/-- A START whose output leaves in the next cycle. -/
theorem test_witness_CyclesRefineOperations :
    (match runCycles [{ quietCycle with ev := some (Event.plain 2), txWrite := some (0, 7), txRead := some 0 },
        { quietCycle with outReady := true, regRead := some 8 }] State.reset with
      | .next r => leftOutputs r.2 == [.close] && r.1.ctl == .txDone && r.1.txbuf == [(0, 7)]
      | .fault _ => false
      | .refused _ => false) = true := by decide

theorem test_witness_SenderBootSendsTheFirstWindow :
    1 ≤ (127 : Byte).toNat ∧ (127 : Byte).toNat ≤ 127 ∧ (10 : Byte) ≠ 0 ∧ ([0x41] : List Byte).length ≤ Config.maxLen ∧
    1 = (([0x41] : List Byte).length + 63) / 64 :=
  ⟨by decide, by decide, by decide, small_fits (by decide), by decide⟩

theorem test_witness_ReceiverBootWaitsForFrames : (1 : Byte) ≠ 0 := by decide

/-- W1 on one byte: frame, ACK and close are delivered, after a tick and a lost frame that is sent again. -/
theorem test_witness_LossyConnectionDeliversTheInput :
    (match runInputs (senderBoot [0x41] 1 1 1 2) State.reset, runInputs (receiverBoot 1 3 4) State.reset with
      | .next (s, sent), .next (r, _) =>
        let actions : List Action :=
          [.dropToReceiver, .atReceiver (.event (Event.plain 3)), .atSender (.event (Event.plain 3)),
            .deliverToReceiver, .deliverToSender, .deliverToReceiver, .deliverToSender]
        actions.all quietAction &&
          (match runActions actions (openedConnection s r sent) with
            | .next c => connectionEndedWell c && c.rcv.rxbuf == [(0, 0x41)]
            | .fault _ => false
            | .refused _ => false)
      | _, _ => false) = true := by decide

/-- Each kind of edge: a reset with an event and an output waiting, an accepted event, an event behind a queued output, and
a cycle with nothing on the event port; a write of a byte that `TX_LEN` leaves free, and an event that stops the model. -/
theorem test_witness_CycleFollowsTheHandshake :
    afterEdge { quietCycle with rst := true, ev := some (Event.plain 2) } { sender with outq := [.close] }
      (resetBlock { sender with outq := [.close] }) ∧
    (let c : CycleIn := { quietCycle with ev := some (Event.plain 3), txWrite := some (65, 7), txRead := some 0 }
     afterEdge c sender { sender with timer := 1 } ∧ 65 < Config.maxLen ∧ 0 < Config.maxLen ∧
       ¬ (sender.ctl = .txWait ∧ 65 < sender.txLen.toNat)) ∧
    afterEdge { quietCycle with ev := some (Event.plain 3), outReady := true } { sender with outq := [.close] } sender ∧
    afterEdge quietCycle sender sender ∧
    acceptEvent (Event.plain 2) { State.reset with txLen := 1 } = .fault (.unwrittenTxByte 0) :=
  ⟨.inl ⟨rfl, rfl⟩, ⟨.inr (.inl ⟨rfl, rfl, _, rfl, rfl⟩), small_fits (by decide), small_fits (by decide), by decide⟩,
    .inr (.inr ⟨rfl, .inl (by decide), rfl⟩), .inr (.inr ⟨rfl, .inr rfl, rfl⟩), rfl⟩

/-- A frame that fills the port and a close at the head of each direction, and a RECV that the outside makes up. -/
theorem test_witness_TransportAloneBringsFrames :
    (let frames : Connection := { snd := sender, rcv := receiver, toRcv := [.frame longFrame], toSnd := [.frame longFrame] }
     longFrame.length ≤ 71 ∧ frames.toRcv = [.frame longFrame] ∧ frames.toSnd = [.frame longFrame]) ∧
    (let closes : Connection := { snd := sender, rcv := receiver, toRcv := [.close], toSnd := [.close] }
     closes.toRcv = [.close] ∧ closes.toSnd = [.close]) ∧ closeEvent.code = 4 := by decide

end Sys2Proof.Tests
end

section
/-! SUPPORT. Proofs on the register map (10_state.md): STATUS, the register read port and reset; first what a completed
composition, run or cycle did. -/

namespace Sys2Proof.Machine

/-! ### What a completed composition did -/

theorem andThen_eq_next {α β : Type} {o : Host.Outcome α Fault Refusal} {f : α → Host.Outcome β Fault Refusal} {b : β} :
    andThen o f = .next b ↔ ∃ a, o = .next a ∧ f a = .next b := by
  cases o <;> simp [andThen]

theorem runInputs_cons_next {a : Input} {as : List Input} {s t : State} {os : List Output}
    (h : runInputs (a :: as) s = .next (t, os)) :
    ∃ u us, applyInput a (settle s) = .next u ∧ runInputs as u = .next (t, us) ∧ os = u.outq ++ us := by
  obtain ⟨u, hu, h⟩ := andThen_eq_next.mp h
  obtain ⟨⟨t', us⟩, hr, h⟩ := andThen_eq_next.mp h
  cases h
  exact ⟨u, us, hu, hr, rfl⟩

/-- What the wires of a completed cycle show does not depend on what its edge does. -/
theorem cycle_out {c : CycleIn} {s t : State} {o : CycleOut} (h : cycle c s = .next (t, o)) : o = cycleOut c s := by
  simp only [cycle] at h
  split at h
  · cases h
  · obtain ⟨u, -, h⟩ := andThen_eq_next.mp h
    obtain ⟨v, -, h⟩ := andThen_eq_next.mp h
    cases h
    rfl

/-! ### STATUS and the register read port -/

theorem stateCode_toNat (c : ControlState) : (stateCode c).toNat =
    match c with | .idle => 0 | .txWait => 1 | .txDone => 2 | .rxWait => 3 | .rxDone => 4 | .error => 7 := by
  cases c <;> rfl

theorem causeCode_toNat (c : Cause) : (causeCode c).toNat =
    match c with | .none => 0 | .invalidMode => 1 | .illegalOp => 2 | .peerClosed => 3 | .rxOverflow => 4 := by
  cases c <;> rfl

/-- A concatenation of fields as a number: the right part below the left one. -/
theorem toNat_append_eq_add {n m : Nat} (x : BitVec n) (y : BitVec m) :
    (x ++ y).toNat = x.toNat * 2 ^ m + y.toNat := by
  rw [BitVec.toNat_append, ← Nat.shiftLeft_add_eq_or_of_lt y.isLt, Nat.shiftLeft_eq]

/-- STATUS as a number (R15): STATE, then MALF from bit 3, then CAUSE from bit 4. -/
theorem statusWord_toNat (s : State) :
    (statusWord s).toNat = (stateCode s.ctl).toNat + 8 * s.malf.toNat + 16 * (causeCode s.cause).toNat := by
  simp only [statusWord, toNat_append_eq_add, BitVec.toNat_ofBool, BitVec.toNat_ofNat]
  omega

/-- Reserved and unmapped indices read 0 (R22). -/
theorem readReg_unmapped (s : State) {k : BitVec 8} (h : k = 7 ∨ 15 ≤ k.toNat) : readReg s k = 0 := by
  have hk : k.toNat = 7 ∨ 15 ≤ k.toNat := h.imp_left (congrArg BitVec.toNat)
  simp only [readReg]
  split
  case h_15 => rfl
  all_goals omega

/-- The reset values of R7 at the read port: `CFG_N` 8, `CFG_T` and `CFG_TR` 10, every other index 0. -/
theorem readReg_resetBlock (s : State) (k : BitVec 8) :
    readReg (resetBlock s) k = if k = 1 then 8 else if k = 2 ∨ k = 3 then 10 else 0 := by
  simp only [readReg, ← BitVec.toNat_inj (x := k)]
  split <;> simp_all [statusWord, State.reset, causeCode, stateCode]

/-- Settles O38: the three fields are STATUS as a number, with the codes of R8 and R112. -/
theorem statusShowsItsFields : Obligations.StatusShowsItsFields := by
  unfold Obligations.StatusShowsItsFields
  intro s
  have h : readReg s 8 = statusWord s := rfl
  rw [h, statusWord_toNat, stateCode_toNat, causeCode_toNat]
  cases s.malf <;> rfl

/-- Settles O39. In a cycle the port's wires are `cycleOut` of the state from before the edge. -/
theorem registerReadPort : Obligations.RegisterReadPort := by
  unfold Obligations.RegisterReadPort
  refine ⟨fun s => ?_, fun _ _ => rfl, fun s t c o k _ hk h => ?_⟩
  · refine ⟨?_, ?_, ?_, ?_, ?_, ?_, rfl, rfl, rfl, rfl, rfl, ?_, rfl, ?_, fun k hk => readReg_unmapped s hk⟩
    all_goals exact BitVec.toNat_setWidth_of_le (by decide)
  · rw [cycle_out h, cycleOut, hk]
    rfl

/-- Settles O41: the state is `resetBlock s`, whose registers are those of `State.reset`. -/
theorem resetGivesTheResetValues : Obligations.ResetGivesTheResetValues := by
  unfold Obligations.ResetGivesTheResetValues
  exact fun s => ⟨resetBlock s, rfl, rfl, rfl, rfl, readReg_resetBlock s⟩

end Sys2Proof.Machine
end

section
/-! SUPPORT. The invariant of one block: one lemma per update that an effect makes, then per effect, request, step and
run. -/

namespace Sys2Proof.Machine

/-! ### The index registers stay in their range (R16) -/

theorem ceilDiv_le_ceilDiv {a a' : Nat} (h : a ≤ a') (b : Nat) : ceilDiv a b ≤ ceilDiv a' b :=
  Nat.div_le_div_right (Nat.sub_le_sub_right (Nat.add_le_add_right h b) 1)

/-- No input has more chunks than fit the 32 bits of an index register with room to spare. -/
theorem maxChunks_le : ceilDiv Config.maxLen Config.chunkSize ≤ 2 ^ 19 := by
  have := maxLen_le
  simp only [ceilDiv, Config.chunkSize]
  omega

theorem chunkCount_le {s : State} (h : senderConfigLegal s) :
    chunkCount s ≤ ceilDiv Config.maxLen Config.chunkSize := by
  obtain ⟨-, -, -, hlen⟩ := h
  exact ceilDiv_le_ceilDiv hlen _

theorem toNat_pos_of_ne_zero {b : Byte} (h : b ≠ 0) : 0 < b.toNat :=
  Nat.pos_of_ne_zero fun h0 => h (BitVec.eq_of_toNat_eq h0)

/-! ### Updates that keep the invariant -/

/-- The sender's part of the invariant speaks of no port field. -/
theorem SenderInv.withPorts {s : State} (h : SenderInv s) (o : List Output) (i : List Input) (r : Option Reply)
    (d : Nat) : SenderInv { s with outq := o, inputs := i, reply := r, draws := d } := { h with }

theorem ReceiverInv.withPorts {s : State} (h : ReceiverInv s) (o : List Output) (i : List Input) (r : Option Reply)
    (d : Nat) : ReceiverInv { s with outq := o, inputs := i, reply := r, draws := d } := { h with }

/-- A reset keeps the buffers (R37), so all it needs is that they are in canonical form and hold no index past the last. -/
theorem resetBlock_inv {s : State} (htx : Memory.wf s.txbuf = true) (hrx : Memory.wf s.rxbuf = true)
    (htxr : Memory.inRange s.txbuf) (hrxr : Memory.inRange s.rxbuf) : (resetBlock s).Inv where
  txWf := htx
  rxWf := hrx
  txRange := htxr
  rxRange := hrxr
  cause := iff_of_true rfl nofun
  rxLen := Nat.zero_le _
  rxHeld := fun x hx => absurd hx (Nat.not_lt_zero x)
  total := Nat.zero_le _
  next := Nat.le_refl _
  base := Nat.zero_le _
  timer := Nat.zero_le _
  sender := nofun
  receiver := nofun
  sent := nofun

namespace State.Inv

variable {s t : State}

/-- The invariant speaks of no port field. -/
theorem withPorts (h : s.Inv) (o : List Output) (i : List Input) (r : Option Reply) (d : Nat) :
    State.Inv { s with outq := o, inputs := i, reply := r, draws := d } :=
  { h with
    sender := fun hw => (h.sender hw).withPorts o i r d
    receiver := fun hw => (h.receiver hw).withPorts o i r d }

protected theorem emit (h : s.Inv) (os : List Output) : (emit s os).Inv :=
  h.withPorts (s.outq ++ os) s.inputs s.reply s.draws

protected theorem settle (h : s.Inv) : (settle s).Inv := h.withPorts [] s.inputs none s.draws

theorem cause_none (h : s.Inv) (hs : s.ctl ≠ .error) : s.cause = .none := h.cause.mpr hs

protected theorem takeFault (h : s.Inv) {c : Cause} (hc : c ≠ .none) : (takeFault c s).Inv :=
  State.Inv.emit (s := { s with cause := c, ctl := .error })
    { h with
      cause := ⟨fun e => absurd e hc, fun e => absurd rfl e⟩
      sender := nofun
      receiver := nofun
      sent := nofun } _

/-- A configuration write comes only where no wait is under way, so nothing holds the configuration to a session. -/
protected theorem writeCfg (h : s.Inv) {k : BitVec 8} {v : Word} (hr : s.ctl.ready = true)
    (hw : writeCfg s k v = some t) : t.Inv := by
  obtain ⟨htx, hrx, -⟩ := ready_not_waiting hr
  rcases writeCfg_cases hw with ⟨-, rfl⟩ | ⟨-, rfl⟩ | ⟨-, rfl⟩ | ⟨-, rfl⟩ | ⟨-, rfl⟩ | ⟨-, rfl⟩ | ⟨-, rfl⟩ <;>
    exact { h with sender := fun hw => absurd hw htx, receiver := fun hw => absurd hw hrx }

theorem withMalf (h : s.Inv) (b : Bool) : State.Inv { s with malf := b } :=
  { h with
    sender := fun hw => { h.sender hw with }
    receiver := fun hw => { h.receiver hw with } }

/-- `TIMER` may take any value short of the timeout of the wait under way (R19). -/
theorem withTimer (h : s.Inv) {v : BitVec 8} (hv : v.toNat ≤ 254) (htx : s.ctl = .txWait → v.toNat < s.cfgT.toNat)
    (hrx : s.ctl = .rxWait → v.toNat < s.cfgTr.toNat) : State.Inv { s with timer := v } :=
  { h with
    timer := hv
    sender := fun hw => { h.sender hw with timer := htx hw }
    receiver := fun hw => { h.receiver hw with timer := hrx hw } }

theorem cfgT_pos (h : s.Inv) (hw : s.ctl = .txWait) : 0 < s.cfgT.toNat :=
  Nat.zero_lt_of_lt (h.sender hw).timer

theorem cfgTr_pos (h : s.Inv) (hw : s.ctl = .rxWait) : 0 < s.cfgTr.toNat :=
  Nat.zero_lt_of_lt (h.receiver hw).timer

theorem restartTimer (h : s.Inv) : State.Inv { s with timer := 0 } :=
  h.withTimer (Nat.zero_le _) h.cfgT_pos h.cfgTr_pos

/-! ### START -/

theorem openEmpty (h : s.Inv) (hr : s.ctl.ready = true) :
    State.Inv { s with txTotal := 0, txBase := 0, txNext := 0, timer := 0, malf := false, ctl := .txDone } :=
  { h with
    cause := iff_of_true (h.cause_none (ready_not_waiting hr).2.2) nofun
    total := Nat.zero_le _
    next := Nat.le_refl _
    base := Nat.zero_le _
    timer := Nat.zero_le _
    sender := nofun
    receiver := nofun
    sent := fun _ => Nat.le_refl _ }

/-- START's burst is the first window, and sending it has found its bytes written (R78). -/
protected theorem openSender (h : s.Inv) (hr : s.ctl.ready = true) (hrole : s.cfgRole = 0)
    (hok : senderConfigOk s = true) (h0 : chunkCount s ≠ 0) (hb : framesWritten s 0 (min s.cfgN.toNat (chunkCount s))) :
    State.Inv { s with
      txTotal := BitVec.ofNat 32 (chunkCount s), txBase := 0,
      txNext := BitVec.ofNat 32 (min s.cfgN.toNat (chunkCount s)), timer := 0, malf := false, ctl := .txWait } := by
  have hlegal := (senderConfigOk_iff s).mp hok
  have hcount := chunkCount_le hlegal
  have hmax := maxChunks_le
  have htotal : (BitVec.ofNat 32 (chunkCount s)).toNat = chunkCount s := ofNat_index (by omega)
  have hnext : (BitVec.ofNat 32 (min s.cfgN.toNat (chunkCount s))).toNat = min s.cfgN.toNat (chunkCount s) :=
    ofNat_index (by omega)
  obtain ⟨-, -, hT, -⟩ := hlegal
  exact { h with
    cause := iff_of_true (h.cause_none (ready_not_waiting hr).2.2) nofun
    total := by rw [htotal]; exact hcount
    next := by rw [htotal, hnext]; exact Nat.min_le_right _ _
    base := Nat.zero_le _
    timer := Nat.zero_le _
    sender := fun _ => {
      role := hrole
      config := hok
      total := htotal
      base := by rw [htotal]; exact Nat.pos_of_ne_zero h0
      next := by simp [windowEnd, htotal, hnext]
      timer := toNat_pos_of_ne_zero hT
      written := fun x hx => by
        simp only [sentBytes, hnext, Config.chunkSize] at hx
        exact hb x (Nat.zero_le _) hx }
    receiver := nofun
    sent := nofun }

/-- RX.START (R93). -/
protected theorem openReceiver (h : s.Inv) (hr : s.ctl.ready = true) (hrole : s.cfgRole = 1)
    (hok : receiverConfigOk s = true) :
    State.Inv { s with rxExp := 0, rxLen := 0, timer := 0, malf := false, ctl := .rxWait } :=
  { h with
    cause := iff_of_true (h.cause_none (ready_not_waiting hr).2.2) nofun
    rxLen := Nat.zero_le _
    rxHeld := fun x hx => absurd hx (Nat.not_lt_zero x)
    timer := Nat.zero_le _
    sender := nofun
    receiver := fun _ => {
      role := hrole
      config := hok
      timer := toNat_pos_of_ne_zero ((receiverConfigOk_iff s).mp hok) }
    sent := nofun }

/-! ### A valid ACK -/

/-- The new base, and the index register that holds it (R16). -/
theorem advance_le (h : s.Inv) (hw : s.ctl = .txWait) {d : Nat} (hd : d < s.cfgN.toNat) :
    s.txBase.toNat + d + 1 ≤ s.txTotal.toNat + 126 ∧
      (BitVec.ofNat 32 (s.txBase.toNat + d + 1)).toNat = s.txBase.toNat + d + 1 := by
  have hs := h.sender hw
  obtain ⟨-, hN, -, -⟩ := (senderConfigOk_iff s).mp hs.config
  have hbase := hs.base
  have htotal := h.total
  have hmax := maxChunks_le
  exact ⟨by omega, ofNat_index (by omega)⟩

/-- The last ACK (R83). -/
theorem complete (h : s.Inv) (hw : s.ctl = .txWait) {d : Nat} (hd : d < s.cfgN.toNat)
    (hc : s.txTotal.toNat ≤ s.txBase.toNat + d + 1) :
    State.Inv { s with timer := 0, txBase := BitVec.ofNat 32 (s.txBase.toNat + d + 1), ctl := .txDone } := by
  obtain ⟨hle, hbase⟩ := h.advance_le hw hd
  exact { h with
    cause := iff_of_true (h.cause_none (by simp [hw])) nofun
    base := by rw [hbase]; exact hle
    timer := Nat.zero_le _
    sender := nofun
    receiver := nofun
    sent := fun _ => by rw [hbase]; exact hc }

/-- Any other valid ACK (R84): the frames below the old `TX_NEXT` were written before, and sending the rest of the window
has found the others written. -/
theorem fill (h : s.Inv) (hw : s.ctl = .txWait) {d : Nat} (hd : d < s.cfgN.toNat)
    (hc : s.txBase.toNat + d + 1 < s.txTotal.toNat)
    (hs : framesWritten s s.txNext.toNat (windowEnd s (s.txBase.toNat + d + 1))) :
    State.Inv { s with
      timer := 0, txBase := BitVec.ofNat 32 (s.txBase.toNat + d + 1),
      txNext := BitVec.ofNat 32 (max s.txNext.toNat (windowEnd s (s.txBase.toNat + d + 1))) } := by
  have hi := h.sender hw
  obtain ⟨hle, hbase⟩ := h.advance_le hw hd
  have hmax := maxChunks_le
  have htotal := h.total
  have hold := hi.next
  have hend : windowEnd s (s.txBase.toNat + d + 1) ≤ s.txTotal.toNat := Nat.min_le_right _ _
  have hmono : s.txNext.toNat ≤ windowEnd s (s.txBase.toNat + d + 1) := by
    simp only [windowEnd] at hold ⊢
    omega
  rw [Nat.max_eq_right hmono]
  have hnext : (BitVec.ofNat 32 (windowEnd s (s.txBase.toNat + d + 1))).toNat =
      windowEnd s (s.txBase.toNat + d + 1) := ofNat_index (by omega)
  exact { h with
    next := by rw [hnext]; exact hend
    base := by rw [hbase]; exact hle
    timer := Nat.zero_le _
    sender := fun _ => { hi with
      base := by rw [hbase]; exact hc
      next := by rw [hnext, hbase]; rfl
      timer := h.cfgT_pos hw
      written := fun x hx => by
        simp only [sentBytes, hnext, Config.chunkSize] at hx
        by_cases hx' : x < 64 * s.txNext.toNat
        · exact hi.written x (by simp only [sentBytes, Config.chunkSize]; omega)
        · exact hs x (by omega) hx }
    receiver := by simp [hw]
    sent := by simp [hw] }

/-! ### A received frame, and a host write -/

/-- The accepted bytes stand directly above the bytes received before (R97). -/
protected theorem acceptPayload (h : s.Inv) {p : List Byte} (hw : s.ctl = .rxWait)
    (hp : s.rxLen.toNat + p.length ≤ Config.maxLen) : (acceptPayload p s).Inv := by
  have hmax := maxLen_le
  have hlen : (BitVec.ofNat 32 (s.rxLen.toNat + p.length)).toNat = s.rxLen.toNat + p.length := ofNat_index (by omega)
  refine State.Inv.emit (s := { s with
    timer := 0, rxbuf := Memory.writeRange s.rxbuf s.rxLen.toNat p,
    rxLen := BitVec.ofNat 32 (s.rxLen.toNat + p.length), rxExp := s.rxExp + 1 }) ?_ _
  exact { h with
    rxWf := Memory.wf_writeRange _ p h.rxWf
    rxRange := Memory.inRange_writeRange h.rxRange hp
    rxLen := by rw [hlen]; exact hp
    rxHeld := by rw [hlen]; exact Memory.writtenBelow_writeRange p h.rxHeld
    timer := Nat.zero_le _
    sender := by simp [hw]
    receiver := fun _ => { h.receiver hw with timer := h.cfgTr_pos hw } }

/-- The peer's close (R100). -/
theorem receiverClose (h : s.Inv) (hw : s.ctl = .rxWait) : State.Inv { s with ctl := .rxDone } :=
  { h with
    cause := iff_of_true (h.cause_none (by simp [hw])) nofun
    sender := nofun
    receiver := nofun
    sent := nofun }

theorem writeTx (h : s.Inv) {i : Nat} (v : Byte) (hi : i < Config.maxLen) :
    State.Inv { s with txbuf := Memory.write s.txbuf i v } :=
  { h with
    txWf := Memory.wf_write i v h.txWf
    txRange := Memory.inRange_write v h.txRange hi
    sender := fun hw => { h.sender hw with written := Memory.writtenBelow_write i v (h.sender hw).written }
    receiver := fun hw => { h.receiver hw with } }

protected theorem resetBlock (h : s.Inv) : (resetBlock s).Inv := resetBlock_inv h.txWf h.rxWf h.txRange h.rxRange

/-! ### Operations, requests, steps and runs -/

/-- Every effect of an operation keeps the invariant. -/
theorem effect (h : s.Inv) (e : Effect s t) : t.Inv := by
  cases e with
  | same => exact h
  | result c bytes => exact h.emit _
  | fault c hc _ => exact h.takeFault hc
  | config k v t hr hw => exact h.writeCfg hr hw
  | openEmpty hr _ _ _ => exact (h.openEmpty hr).emit _
  | openSender burst hr hrole hok h0 hb => exact (h.openSender hr hrole hok h0 (sendRange_written hb)).emit _
  | openReceiver hr hrole hok => exact h.openReceiver hr hrole hok
  | senderCount hw ht =>
    have := s.cfgT.isLt
    refine h.withTimer ?_ (fun _ => ?_) (by simp [hw])
    all_goals rw [BitVec.toNat_ofNat]; omega
  | timeout resent _ _ _ => exact h.restartTimer.emit _
  | malformed _ => exact h.withMalf true
  | invalidAck _ => exact h.restartTimer
  | complete d hw hd hc => exact (h.complete hw hd hc).emit _
  | fill d sent hw hd hc hs => exact (h.fill hw hd hc (sendRange_written hs)).emit _
  | receiverCount hw ht =>
    have := s.cfgTr.isLt
    refine h.withTimer ?_ (by simp [hw]) (fun _ => ?_)
    all_goals rw [BitVec.toNat_ofNat]; omega
  | receiverTimeout _ _ => exact h.restartTimer
  | accept p hw hp => exact h.acceptPayload hw hp
  | discard _ => exact h.restartTimer.emit _
  | receiverClose hw => exact (h.receiverClose hw).emit _

protected theorem applyInput (h : s.Inv) {a : Input} (ha : applyInput a s = .next t) : t.Inv := by
  rcases applyInput_cases ha with ⟨-, -, e⟩ | ⟨i, v, -, hi, -, rfl⟩ | ⟨k, -, rfl⟩ | ⟨i, -, -, rfl⟩ | ⟨i, -, -, rfl⟩ |
    ⟨-, rfl⟩
  · exact h.effect e
  · exact h.writeTx v hi
  · exact h.withPorts _ _ _ _
  · exact h.withPorts _ _ _ _
  · exact h.withPorts _ _ _ _
  · exact h.resetBlock

protected theorem step (h : s.Inv) (hs : step s = .next t) : t.Inv := by
  simp only [step, runNext] at hs
  split at hs
  · cases hs
    exact h.settle
  · exact (h.withPorts _ _ _ _).applyInput hs

protected theorem runInputs (h : s.Inv) {as : List Input} {os : List Output} (hr : runInputs as s = .next (t, os)) :
    t.Inv := by
  induction as generalizing s os with
  | nil =>
    cases hr
    exact h
  | cons a as ih =>
    obtain ⟨u, us, hu, hr, -⟩ := runInputs_cons_next hr
    exact ih (h.settle.applyInput hu) hr

end State.Inv

/-- Settles O48: the state after reset is a reset of itself, and its buffers are empty. -/
theorem resetMeetsTheInvariant : Obligations.ResetMeetsTheInvariant := by
  unfold Obligations.ResetMeetsTheInvariant
  exact resetBlock_inv (s := State.reset) rfl rfl nofun nofun

/-- Settles O49: a step settles the ports, which the invariant does not speak of, then does one request. -/
theorem stepKeepsTheInvariant : Obligations.StepKeepsTheInvariant := by
  unfold Obligations.StepKeepsTheInvariant
  exact fun _ _ h hs => h.step hs

/-- Settles O51: `SenderInv` holds along every run from reset, and R28 is two of its fields. -/
theorem reachableWindowIsExact : Obligations.ReachableWindowIsExact := by
  unfold Obligations.ReachableWindowIsExact
  intro as t os hrun hw
  have hs := (State.Inv.runInputs resetMeetsTheInvariant hrun).sender hw
  exact ⟨hs.next, hs.base⟩

end Sys2Proof.Machine
end

section
/-! SUPPORT. Which event writes the session registers and MALF (R20, R23, R24). -/

namespace Sys2Proof.Machine

/-! ### Events that write no session register -/

/-- The session registers of both roles, TIMER and MALF are as before (R23, R24). -/
structure KeepsSession (s t : State) : Prop where
  txBase  : t.txBase = s.txBase
  txNext  : t.txNext = s.txNext
  txTotal : t.txTotal = s.txTotal
  rxExp   : t.rxExp = s.rxExp
  rxLen   : t.rxLen = s.rxLen
  timer   : t.timer = s.timer
  malf    : t.malf = s.malf

theorem KeepsSession.refl (s : State) : KeepsSession s s := ⟨rfl, rfl, rfl, rfl, rfl, rfl, rfl⟩

theorem takeFault_keepsSession (c : Cause) (s : State) : KeepsSession s (takeFault c s) :=
  ⟨rfl, rfl, rfl, rfl, rfl, rfl, rfl⟩

theorem emit_keepsSession (s : State) (os : List Output) : KeepsSession s (emit s os) :=
  ⟨rfl, rfl, rfl, rfl, rfl, rfl, rfl⟩

theorem writeCfg_keepsSession {s t : State} {k : BitVec 8} {v : Word} (h : writeCfg s k v = some t) :
    KeepsSession s t := by
  rcases writeCfg_cases h with ⟨-, rfl⟩ | ⟨-, rfl⟩ | ⟨-, rfl⟩ | ⟨-, rfl⟩ | ⟨-, rfl⟩ | ⟨-, rfl⟩ | ⟨-, rfl⟩ <;>
    exact ⟨rfl, rfl, rfl, rfl, rfl, rfl, rfl⟩

theorem execCfgwr_keepsSession {s t : State} {k : BitVec 8} {v : Word} (h : execCfgwr k v s = .next t) :
    KeepsSession s t := by
  simp only [execCfgwr] at h
  split at h
  case h_4 | h_5 | h_6 =>
    split at h
    · cases h; exact writeCfg_keepsSession ‹_›
    · cases h; exact takeFault_keepsSession _ s
  case h_3 => cases h; exact .refl s
  all_goals cases h; exact takeFault_keepsSession _ s

theorem reservedEvent_keepsSession {s t : State} (h : reservedEvent s = .next t) : KeepsSession s t := by
  simp only [reservedEvent] at h
  split at h <;> cases h
  · exact .refl s
  all_goals exact takeFault_keepsSession _ s

/-! ### TICK and RECV when no connection is open (R110, R111), START while one is (R108) -/

theorem tickEvent_closed {s : State} (h : connectionOpen s.ctl = false) : tickEvent s = .next s := by
  simp only [tickEvent]
  cases hc : s.ctl <;> simp_all [connectionOpen]

theorem recvEvent_closed {s : State} (h : connectionOpen s.ctl = false) (len : BitVec 7) (raw : List Byte) :
    recvEvent len raw s = .next s := by
  simp only [recvEvent]
  cases hc : s.ctl <;> simp_all [connectionOpen]

theorem startEvent_open {s : State} (h : connectionOpen s.ctl = true) :
    startEvent s = .next (takeFault .illegalOp s) := by
  simp only [startEvent]
  cases hc : s.ctl <;> simp_all [connectionOpen]

/-- Outside a wait state only START writes a session register (R23). -/
theorem exec_closed_keepsSession {s t : State} {i : Instr} (hs : connectionOpen s.ctl = false) (hi : i.code ≠ 2)
    (h : exec i s = .next t) : KeepsSession s t := by
  have htick (h : tickEvent s = .next t) : KeepsSession s t := by
    cases (tickEvent_closed hs).symm.trans h
    exact .refl s
  have hrecv (len : BitVec 7) (raw : List Byte) (h : recvEvent len raw s = .next t) : KeepsSession s t := by
    cases (recvEvent_closed hs len raw).symm.trans h
    exact .refl s
  cases i with
  | nop => cases h; exact .refl s
  | cfgwr k v => exact execCfgwr_keepsSession h
  | start | txStart | rxStart => exact absurd rfl hi
  | txTick | rxTick => exact htick h
  | txRecv len raw | rxRecv len raw => exact hrecv len raw h
  | pack | unpack => cases h; exact emit_keepsSession s _
  | rsv7 | rsv8F => exact reservedEvent_keepsSession h

/-! ### Roles -/

theorem Effect.keeps_receiver {s t : State} (e : Effect s t) (hw : s.ctl = .txWait) :
    t.rxExp = s.rxExp ∧ t.rxLen = s.rxLen := by
  cases e with
  | config _ _ _ _ h => exact ⟨(writeCfg_keepsSession h).rxExp, (writeCfg_keepsSession h).rxLen⟩
  | openReceiver hr => exact absurd hw (ready_not_waiting hr).1
  | accept _ hr => simp [hw] at hr
  | _ => exact ⟨rfl, rfl⟩

theorem Effect.keeps_sender {s t : State} (e : Effect s t) (hw : s.ctl = .rxWait) :
    t.txBase = s.txBase ∧ t.txNext = s.txNext ∧ t.txTotal = s.txTotal := by
  cases e with
  | config _ _ _ _ h =>
    have hk := writeCfg_keepsSession h
    exact ⟨hk.txBase, hk.txNext, hk.txTotal⟩
  | openEmpty hr | openSender _ hr => exact absurd hw (ready_not_waiting hr).2.1
  | complete _ ht | fill _ _ ht => simp [hw] at ht
  | _ => exact ⟨rfl, rfl, rfl⟩

/-- Settles O47, by the effects in a wait state and by `KeepsSession` outside one. -/
theorem rolesKeepApart : Obligations.RolesKeepApart := by
  unfold Obligations.RolesKeepApart
  refine ⟨fun s t i hw h => (exec_effect h).keeps_receiver hw, fun s t i hw h => (exec_effect h).keeps_sender hw,
    fun s t i hs hi h => ?_⟩
  obtain ⟨hbase, hnext, htotal, hexp, hlen, htimer, hmalf⟩ := exec_closed_keepsSession hs hi h
  exact ⟨hbase, hnext, htotal, hexp, hlen, htimer, hmalf⟩

/-! ### MALF (R20) -/

theorem frameOperandOk_length {len : BitVec 7} {raw : List Byte} (h : frameOperandOk len raw = true)
    (hl : len.toNat ≤ 71) : raw.length = len.toNat := by
  simpa [frameOperandOk, Config.maxFrame, hl] using h

theorem isMalformedLength_of_unpackFrame {len : BitVec 7} {raw : List Byte} (hok : frameOperandOk len raw = true)
    (hu : unpackFrame len.toNat raw = .malformed) : isMalformedLength len := by
  rcases unpackFrame_cases (frameOperandOk_length hok) with ⟨-, h⟩ | ⟨h, -⟩ | ⟨-, -, -, f, h, -⟩
  · simp [h] at hu
  · exact h
  · simp [h] at hu

theorem tickEvent_malf {s t : State} (h : tickEvent s = .next t) : t.malf = s.malf := by
  simp only [tickEvent] at h
  split at h
  · simp only [senderTick] at h
    repeat' split at h
    all_goals cases h <;> rfl
  · simp only [receiverTick] at h
    split at h <;> cases h <;> rfl
  all_goals cases h; rfl

/-- A START that changes MALF has opened a connection, or completed an empty one. -/
theorem startEvent_malf {s t : State} (h : startEvent s = .next t) (hm : t.malf ≠ s.malf) :
    t.malf = false ∧ s.ctl.ready = true ∧ t.ctl ≠ .error := by
  cases startEvent_effect h with
  | openEmpty hr | openSender _ hr | openReceiver hr => exact ⟨rfl, hr, nofun⟩
  | config _ _ _ _ hw => exact absurd (writeCfg_keepsSession hw).malf hm
  | malformed ho =>
    rw [startEvent_open ho] at h
    injection h with h
    exact absurd (congrArg State.malf h).symm hm
  | _ => exact absurd rfl hm

theorem advanceWindow_malf {s t : State} {d : Nat} (h : advanceWindow s d = .next t) : t.malf = s.malf := by
  simp only [advanceWindow] at h
  repeat' split at h
  all_goals cases h <;> rfl

/-- A RECV that changes MALF has set it, and its operand is malformed. -/
theorem recvEvent_malf {s t : State} {len : BitVec 7} {raw : List Byte} (h : recvEvent len raw s = .next t)
    (hm : t.malf ≠ s.malf) :
    t.malf = true ∧ connectionOpen s.ctl = true ∧ unpackFrame len.toNat raw = .malformed := by
  simp only [recvEvent] at h
  cases hc : s.ctl <;> simp only [hc] at h
  case txWait =>
    simp only [senderRecv] at h
    split at h
    case h_1 hu => cases h; exact ⟨rfl, rfl, hu⟩
    case h_2 => cases h; exact absurd rfl hm
    case h_3 =>
      split at h
      · exact absurd (advanceWindow_malf h) hm
      · cases h; exact absurd rfl hm
  case rxWait =>
    simp only [receiverRecv] at h
    split at h
    case h_1 hu => cases h; exact ⟨rfl, rfl, hu⟩
    case h_2 => cases h; exact absurd rfl hm
    case h_3 =>
      repeat' split at h
      all_goals cases h; exact absurd rfl hm
  all_goals cases h; exact absurd rfl hm

/-- Which operation changes MALF (R20). -/
theorem exec_malf {s t : State} {i : Instr} (hi : i.wellFormed = true) (h : exec i s = .next t)
    (hm : t.malf ≠ s.malf) :
    (t.malf = true ∧ connectionOpen s.ctl = true ∧
      ∃ len raw, (i = .txRecv len raw ∨ i = .rxRecv len raw) ∧ isMalformedLength len) ∨
    (t.malf = false ∧ i.code = 2 ∧ s.ctl.ready = true ∧ t.ctl ≠ .error) := by
  cases i with
  | nop => cases h; exact absurd rfl hm
  | cfgwr k v => exact absurd (execCfgwr_keepsSession h).malf hm
  | start | txStart | rxStart =>
    obtain ⟨hf, hr, he⟩ := startEvent_malf h hm
    exact .inr ⟨hf, rfl, hr, he⟩
  | txTick | rxTick => exact absurd (tickEvent_malf h) hm
  | txRecv len raw | rxRecv len raw =>
    obtain ⟨ht, ho, hu⟩ := recvEvent_malf h hm
    exact .inl ⟨ht, ho, len, raw, by simp, isMalformedLength_of_unpackFrame hi hu⟩
  | pack | unpack => cases h; exact absurd rfl hm
  | rsv7 | rsv8F => exact absurd (reservedEvent_keepsSession h).malf hm

/-- A host request that changes MALF is a reset. -/
theorem applyInput_malf {s t : State} {a : Input} (ha : ∀ e, a ≠ .event e) (h : applyInput a s = .next t)
    (hm : t.malf ≠ s.malf) : a = .rst ∧ t.malf = false := by
  rcases applyInput_cases h with ⟨e, he, -⟩ | ⟨_, _, -, -, -, rfl⟩ | ⟨_, -, rfl⟩ | ⟨_, -, -, rfl⟩ | ⟨_, -, -, rfl⟩ |
    ⟨ha, rfl⟩
  · exact absurd he (ha e)
  · exact absurd rfl hm
  · exact absurd rfl hm
  · exact absurd rfl hm
  · exact absurd rfl hm
  · exact ⟨ha, rfl⟩

/-- Settles O37, operation by operation and request by request. -/
theorem malfIsSticky : Obligations.MalfIsSticky := by
  unfold Obligations.MalfIsSticky
  exact ⟨fun _ _ _ hi h hm => exec_malf hi h hm, fun _ _ _ ha h hm => applyInput_malf ha h hm⟩

end Sys2Proof.Machine
end

section
/-! SUPPORT. Proofs on the two buffers and the host's ports (20_memory.md): who writes `TXBUF` and `RXBUF`, what a read
port answers, and at which byte a sender rule stops the model. -/

namespace Sys2Proof.Machine

/-! ### Which operation writes a buffer -/

theorem writeCfg_keepsBuffers {s t : State} {k : BitVec 8} {v : Word} (h : writeCfg s k v = some t) :
    t.txbuf = s.txbuf ∧ t.rxbuf = s.rxbuf := by
  rcases writeCfg_cases h with ⟨-, rfl⟩ | ⟨-, rfl⟩ | ⟨-, rfl⟩ | ⟨-, rfl⟩ | ⟨-, rfl⟩ | ⟨-, rfl⟩ | ⟨-, rfl⟩ <;>
    exact ⟨rfl, rfl⟩

/-- No operation writes `TXBUF` (R32). -/
theorem Effect.keeps_txbuf {s t : State} (e : Effect s t) : t.txbuf = s.txbuf := by
  cases e with
  | config _ _ _ _ hw => exact (writeCfg_keepsBuffers hw).1
  | _ => rfl

/-- Only the receiver's wait writes `RXBUF` (R34). -/
theorem Effect.keeps_rxbuf {s t : State} (e : Effect s t) (hs : s.ctl ≠ .rxWait) : t.rxbuf = s.rxbuf := by
  cases e with
  | config _ _ _ _ hw => exact (writeCfg_keepsBuffers hw).2
  | accept _ hw => exact absurd hw hs
  | _ => rfl

theorem applyInput_keeps_txbuf {s t : State} {a : Input} (ha : writesNothing a = true) (h : applyInput a s = .next t) :
    t.txbuf = s.txbuf := by
  rcases applyInput_cases h with ⟨-, -, e⟩ | ⟨i, v, rfl, -⟩ | ⟨k, -, rfl⟩ | ⟨i, -, -, rfl⟩ | ⟨i, -, -, rfl⟩ | ⟨-, rfl⟩
  · exact e.keeps_txbuf
  · simp [writesNothing] at ha
  all_goals rfl

theorem runInputs_keeps_txbuf {as : List Input} {s t : State} {os : List Output}
    (ha : ∀ b ∈ as, writesNothing b = true) (h : runInputs as s = .next (t, os)) : t.txbuf = s.txbuf := by
  induction as generalizing s os with
  | nil =>
    cases h
    rfl
  | cons a as ih =>
    obtain ⟨hfirst, hrest⟩ := List.forall_mem_cons.mp ha
    obtain ⟨u, us, hu, hr, -⟩ := runInputs_cons_next h
    calc t.txbuf = u.txbuf := ih hrest hr
      _ = s.txbuf := (applyInput_keeps_txbuf hfirst hu).trans (settle_txbuf s)

theorem applyInput_keeps_rxbuf {s t : State} {a : Input} (hs : s.ctl ≠ .rxWait) (h : applyInput a s = .next t) :
    t.rxbuf = s.rxbuf := by
  rcases applyInput_cases h with ⟨-, -, e⟩ | ⟨i, v, -, -, -, rfl⟩ | ⟨k, -, rfl⟩ | ⟨i, -, -, rfl⟩ | ⟨i, -, -, rfl⟩ |
    ⟨-, rfl⟩
  · exact e.keeps_rxbuf hs
  all_goals rfl

/-! ### The receiver's append (R34) -/

/-- `RX_LEN` does not shrink, and only bytes from the old `RX_LEN` up to the new one differ. -/
def OnlyAppends (s t : State) : Prop :=
  s.rxLen.toNat ≤ t.rxLen.toNat ∧ ∀ a, a < s.rxLen.toNat ∨ t.rxLen.toNat ≤ a →
    Memory.read t.rxbuf a = Memory.read s.rxbuf a

theorem OnlyAppends.of_eq {s t : State} (hlen : t.rxLen = s.rxLen) (hbuf : t.rxbuf = s.rxbuf) : OnlyAppends s t :=
  ⟨by rw [hlen], fun _ _ => by rw [hbuf]⟩

theorem acceptPayload_onlyAppends {s : State} {p : List Byte} (hp : s.rxLen.toNat + p.length ≤ Config.maxLen) :
    OnlyAppends s (acceptPayload p s) := by
  have hmax := maxLen_le
  have hlen : (acceptPayload p s).rxLen.toNat = s.rxLen.toNat + p.length := ofNat_index (by omega)
  refine ⟨by omega, fun a ha => ?_⟩
  rw [acceptPayload_rxbuf, Memory.read_writeRange, if_neg (by omega)]

theorem Effect.onlyAppends {s t : State} (e : Effect s t) (hs : s.ctl = .rxWait) : OnlyAppends s t := by
  cases e with
  | config _ _ _ hr | openReceiver hr => exact absurd hs (ready_not_waiting hr).2.1
  | accept p _ hp => exact acceptPayload_onlyAppends hp
  | _ => exact .of_eq rfl rfl

theorem applyInput_onlyAppends {s t : State} {a : Input} (hs : s.ctl = .rxWait) (ha : a ≠ .rst)
    (h : applyInput a s = .next t) : OnlyAppends s t := by
  rcases applyInput_cases h with ⟨-, -, e⟩ | ⟨i, v, -, -, -, rfl⟩ | ⟨k, -, rfl⟩ | ⟨i, -, -, rfl⟩ | ⟨i, -, -, rfl⟩ |
    ⟨hrst, -⟩
  · exact e.onlyAppends hs
  · exact .of_eq rfl rfl
  · exact .of_eq rfl rfl
  · exact .of_eq rfl rfl
  · exact .of_eq rfl rfl
  · exact absurd hrst ha

/-- Settles O46: of the effects only the accepted frame of R97 writes `RXBUF`, at `RX_LEN`. -/
theorem receiverOnlyAppends : Obligations.ReceiverOnlyAppends := by
  unfold Obligations.ReceiverOnlyAppends
  refine ⟨fun s t hs h => ?_, fun s t hs h => ?_⟩
  · rcases h with ⟨i, hi⟩ | ⟨a, ha, hi⟩
    · exact (exec_effect hi).onlyAppends hs
    · exact applyInput_onlyAppends hs ha hi
  · rcases h with ⟨i, hi⟩ | ⟨a, hi⟩
    · exact (exec_effect hi).keeps_rxbuf hs
    · exact applyInput_keeps_rxbuf hs hi

/-! ### The host's ports -/

/-- Settles O42: the port's three answers are the branches of `hostWriteTx`. -/
theorem hostWritesOneTxbufByte : Obligations.HostWritesOneTxbufByte := by
  unfold Obligations.HostWritesOneTxbufByte
  refine fun s i v => ⟨fun hi hfree => ?_, fun hi hw hlen => ?_, fun hi => ?_⟩
  · refine ⟨{ s with txbuf := Memory.write s.txbuf i v }, ?_, rfl, fun a => Memory.read_write s.txbuf i a v⟩
    rw [applyInput, hostWriteTx, if_pos ((indexOk_iff i).mpr hi), if_neg hfree]
  · rw [applyInput, hostWriteTx, if_pos ((indexOk_iff i).mpr hi), if_pos ⟨hw, hlen⟩]
  · rw [applyInput, hostWriteTx, if_neg (by rw [indexOk_iff]; omega)]

theorem applyInput_readTx_next {s t : State} {i : Nat} :
    applyInput (.readTx i) s = .next t ↔
      i < Config.maxLen ∧ t = { s with reply := some (.byte (txByte s i)) } := by
  simp only [applyInput, hostReadTx, ← indexOk_iff]
  split
  · rename_i hi
    simp only [hi, true_and, Host.Outcome.next.injEq]
    exact eq_comm
  · rename_i hi
    simp [hi]

theorem applyInput_readRx_next {s t : State} {i : Nat} :
    applyInput (.readRx i) s = .next t ↔
      i < Config.maxLen ∧ t = { s with reply := some (.byte (rxAnswer s i).1), draws := (rxAnswer s i).2 } := by
  simp only [applyInput, hostReadRx, ← indexOk_iff]
  split
  · rename_i hi
    simp only [hi, true_and, Host.Outcome.next.injEq]
    exact eq_comm
  · rename_i hi
    simp [hi]

theorem txByte_of_read {s : State} {i : Nat} {v : Byte} (h : Memory.read s.txbuf i = some v) : txByte s i = v := by
  simp only [txByte, h]

theorem rxAnswer_of_received {s : State} {i : Nat} {v : Byte} (hi : i < s.rxLen.toNat)
    (h : Memory.read s.rxbuf i = some v) : (rxAnswer s i).1 = v := by
  simp only [rxAnswer, rxByte, if_pos hi, h]

/-- What the `TXBUF` port shows depends on nothing but `TXBUF`, at an unwritten index too (R43). -/
theorem txByte_congr {s t : State} (h : t.txbuf = s.txbuf) (i : Nat) : txByte t i = txByte s i := by
  simp only [txByte, h]

/-- A read on any of the three ports changes nothing but the model's own reply and draws (R43). -/
theorem applyInput_read_frame {s t : State} {a : Input}
    (ha : (∃ k, a = .readReg k) ∨ (∃ i, a = .readTx i) ∨ (∃ i, a = .readRx i)) (h : applyInput a s = .next t) :
    { t with reply := s.reply, draws := s.draws } = s := by
  rcases ha with ⟨k, rfl⟩ | ⟨i, rfl⟩ | ⟨i, rfl⟩
  · cases h
    rfl
  · obtain ⟨-, rfl⟩ := applyInput_readTx_next.mp h
    rfl
  · obtain ⟨-, rfl⟩ := applyInput_readRx_next.mp h
    rfl

/-- Two reads of one `TXBUF` byte with no host write between answer the same (R43). -/
theorem readTx_repeats {s t t' u : State} {i : Nat} {as : List Input} {os : List Output}
    (h : applyInput (.readTx i) s = .next t) (has : ∀ b ∈ as, writesNothing b = true)
    (hrun : runInputs as t = .next (t', os)) (hu : applyInput (.readTx i) t' = .next u) : u.reply = t.reply := by
  have hbuf : t'.txbuf = s.txbuf :=
    (runInputs_keeps_txbuf has hrun).trans (applyInput_keeps_txbuf rfl h)
  obtain ⟨-, rfl⟩ := applyInput_readTx_next.mp h
  obtain ⟨-, rfl⟩ := applyInput_readTx_next.mp hu
  simp only [txByte_congr hbuf]

/-- Settles O43, from what each read port answers and `readTx_repeats`. -/
theorem hostReadsHaveNoEffect : Obligations.HostReadsHaveNoEffect := by
  unfold Obligations.HostReadsHaveNoEffect
  refine ⟨fun s i hi => ⟨⟨_, _, applyInput_readTx_next.mpr ⟨hi, rfl⟩, rfl⟩,
    ⟨_, _, applyInput_readRx_next.mpr ⟨hi, rfl⟩, rfl⟩⟩, fun s t a ha h => ?_⟩
  refine ⟨applyInput_read_frame ha h, ?written, ?received, ?register, ?again, ?index⟩
  case written =>
    rintro i v rfl hv
    obtain ⟨-, rfl⟩ := applyInput_readTx_next.mp h
    simp only [txByte_of_read hv]
  case received =>
    rintro i v rfl hi hv
    obtain ⟨-, rfl⟩ := applyInput_readRx_next.mp h
    simp only [rxAnswer_of_received hi hv]
  case register =>
    rintro k rfl
    cases h
    rfl
  case again =>
    rintro i as t' os u rfl has hrun hu
    exact readTx_repeats h has hrun hu
  case index =>
    rintro i (rfl | rfl)
    · exact (applyInput_readTx_next.mp h).1
    · exact (applyInput_readRx_next.mp h).1

/-! ### An operation stops only on an unwritten byte (R32, R36) -/

/-- If the outcome is a stop, it is the model fault at a `TXBUF` byte below `TX_LEN` that nothing has written. -/
def StopsOnlyUnwritten (s : State) : Host.Outcome State Fault Refusal → Prop
  | .next _ => True
  | .fault f => ∃ a, f = .unwrittenTxByte a ∧ a < s.txLen.toNat ∧ Memory.read s.txbuf a = none
  | .refused _ => False

theorem openSender_stopsOnlyUnwritten (s : State) : StopsOnlyUnwritten s (openSender s) := by
  simp only [openSender]
  split
  · exact sendRange_error ‹_›
  · split <;> trivial

theorem senderTick_stopsOnlyUnwritten (s : State) : StopsOnlyUnwritten s (senderTick s) := by
  simp only [senderTick]
  split
  · split
    · exact sendRange_error ‹_›
    · trivial
  · trivial

theorem advanceWindow_stopsOnlyUnwritten (s : State) (d : Nat) : StopsOnlyUnwritten s (advanceWindow s d) := by
  simp only [advanceWindow]
  split
  · trivial
  · split
    · exact sendRange_error ‹_›
    · trivial

theorem startEvent_stopsOnlyUnwritten (s : State) : StopsOnlyUnwritten s (startEvent s) := by
  have hrole : StopsOnlyUnwritten s (startRole s) := by
    simp only [startRole]
    repeat' split
    · exact openSender_stopsOnlyUnwritten s
    all_goals trivial
  simp only [startEvent]
  split
  case h_4 | h_5 | h_6 => exact hrole
  all_goals trivial

theorem execCfgwr_stopsOnlyUnwritten (k : BitVec 8) (v : Word) (s : State) :
    StopsOnlyUnwritten s (execCfgwr k v s) := by
  simp only [execCfgwr]
  repeat' split
  all_goals trivial

theorem tickEvent_stopsOnlyUnwritten (s : State) : StopsOnlyUnwritten s (tickEvent s) := by
  simp only [tickEvent]
  split
  · exact senderTick_stopsOnlyUnwritten s
  · simp only [receiverTick]
    split <;> trivial
  all_goals trivial

theorem recvEvent_stopsOnlyUnwritten (len : BitVec 7) (raw : List Byte) (s : State) :
    StopsOnlyUnwritten s (recvEvent len raw s) := by
  simp only [recvEvent]
  split
  · simp only [senderRecv]
    repeat' split
    case isTrue => exact advanceWindow_stopsOnlyUnwritten s _
    all_goals trivial
  · simp only [receiverRecv]
    repeat' split
    all_goals trivial
  all_goals trivial

theorem reservedEvent_stopsOnlyUnwritten (s : State) : StopsOnlyUnwritten s (reservedEvent s) := by
  simp only [reservedEvent]
  split <;> trivial

theorem exec_stopsOnlyUnwritten (i : Instr) (s : State) : StopsOnlyUnwritten s (exec i s) := by
  cases i with
  | nop | pack | unpack => trivial
  | cfgwr k v => exact execCfgwr_stopsOnlyUnwritten k v s
  | start | txStart | rxStart => exact startEvent_stopsOnlyUnwritten s
  | txTick | rxTick => exact tickEvent_stopsOnlyUnwritten s
  | txRecv len raw | rxRecv len raw => exact recvEvent_stopsOnlyUnwritten len raw s
  | rsv7 | rsv8F => exact reservedEvent_stopsOnlyUnwritten s

/-- Settles O44, from the effects for a next state and `StopsOnlyUnwritten` for a stop. -/
theorem operationsStopOnlyOnAnUnwrittenByte : Obligations.OperationsStopOnlyOnAnUnwrittenByte := by
  unfold Obligations.OperationsStopOnlyOnAnUnwrittenByte
  refine ⟨fun s t i h => (exec_effect h).keeps_txbuf, fun s i f h => ?_, fun s i r h => ?_⟩
  all_goals
    have hstop := exec_stopsOnlyUnwritten i s
    rwa [h] at hstop

/-! ### A sender rule stops at the first unwritten byte it reads (R36) -/

/-- A range read reports the first of its bytes that nothing has written. -/
theorem Memory.isSome_before_readRange_error {m : Memory} {a n i x : Nat} (h : Memory.readRange m a n = .error i)
    (h1 : a ≤ x) (h2 : x < i) : (Memory.read m x).isSome := by
  induction n generalizing a with
  | zero => cases h
  | succ n ih =>
    rw [Memory.readRange] at h
    split at h
    · cases h
      omega
    · rename_i v hv
      split at h
      · rename_i j hj
        cases h
        by_cases hx : x = a
        · rw [hx, hv]
          rfl
        · exact ih hj (by omega)
      · cases h

theorem dataFrame_written_before_error {s : State} {i x y : Nat} {r : Int}
    (h : dataFrame s i r = .error (.unwrittenTxByte y)) (h1 : 64 * i ≤ x) (h2 : x < y) :
    (Memory.read s.txbuf x).isSome := by
  simp only [dataFrame, chunk] at h
  split at h
  · rename_i f hf
    cases h
    split at hf
    · rename_i a ha
      cases hf
      exact Memory.isSome_before_readRange_error ha h1 h2
    · cases hf
  · cases h

theorem sendFrames_written_before_error {s : State} {a n x y : Nat} {r : Int}
    (h : sendFrames s r a n = .error (.unwrittenTxByte y)) (h1 : 64 * a ≤ x) (h2 : x < y) :
    (Memory.read s.txbuf x).isSome := by
  obtain ⟨_, hy, hlen, -⟩ := sendFrames_error h
  cases hy
  induction n generalizing a with
  | zero => cases h
  | succ n ih =>
    simp only [sendFrames] at h
    split at h
    · rename_i f hf
      cases h
      exact dataFrame_written_before_error hf h1 h2
    · rename_i bytes hb
      split at h
      · rename_i f hf
        cases h
        by_cases hx : x < 64 * (a + 1)
        · exact dataFrame_written hb x h1 (by omega)
        · exact ih hf (by omega)
      · cases h

/-- A range of frames that holds an unwritten byte is not sent, and what stops it is that byte or an earlier one. -/
theorem sendRange_stops {s : State} {a b x : Nat} (r : Int) (hlen : x < s.txLen.toNat)
    (hx : Memory.read s.txbuf x = none) (ha : 64 * a ≤ x) (hb : x < 64 * b) :
    ∃ y, y ≤ x ∧ Memory.read s.txbuf y = none ∧ sendRange s a b r = .error (.unwrittenTxByte y) := by
  cases h : sendRange s a b r with
  | ok os =>
    have := sendRange_written h x ha (by omega)
    simp [hx] at this
  | error f =>
    obtain ⟨y, rfl, -, hy⟩ := sendRange_error h
    refine ⟨y, Nat.le_of_not_lt fun hxy => ?_, hy, rfl⟩
    have := sendFrames_written_before_error h ha hxy
    simp [hx] at this

/-- The chunk of every byte of the input is counted (R74). -/
theorem lt_chunkCount {s : State} {x : Nat} (h : x < s.txLen.toNat) : x < 64 * chunkCount s := by
  simp only [chunkCount, ceilDiv, Config.chunkSize]
  omega

/-- START in the sender role, when its checks pass (R107). -/
theorem startEvent_sender {s : State} (hr : s.ctl.ready = true) (hrole : s.cfgRole = 0) (hok : senderConfigLegal s) :
    startEvent s = openSender s := by
  rw [startEvent_ready hr, startRole, if_pos hrole, if_pos ((senderConfigOk_iff s).mpr hok)]

theorem openSender_of_error {s : State} {f : Fault}
    (h : sendRange s 0 (min s.cfgN.toNat (chunkCount s)) 0 = .error f) : openSender s = .fault f := by
  simp only [openSender, h]

theorem senderTick_of_error {s : State} {f : Fault} (ht : s.cfgT.toNat ≤ s.timer.toNat + 1)
    (h : sendRange s s.txBase.toNat (windowEnd s s.txBase.toNat) 1 = .error f) : senderTick s = .fault f := by
  simp only [senderTick, if_pos ht, h]

theorem advanceWindow_of_error {s : State} {d : Nat} {f : Fault} (hd : s.txBase.toNat + d + 1 < s.txTotal.toNat)
    (h : sendRange s s.txNext.toNat (windowEnd s (s.txBase.toNat + d + 1)) 0 = .error f) :
    advanceWindow s d = .fault f := by
  simp only [advanceWindow, if_neg (Nat.not_le_of_lt hd), h]

/-- Settles O45: each of the three rules sends one range of frames, which stops by `sendRange_stops`. -/
theorem senderStopsAtAnUnwrittenByte : Obligations.SenderStopsAtAnUnwrittenByte := by
  unfold Obligations.SenderStopsAtAnUnwrittenByte
  refine fun s x hlen hx => ⟨fun hr hrole hok hN => ?_, fun hw ht hbase hend => ?_,
    fun len raw base' hw hraw hd hbase' htotal hnext hend => ?_⟩
  · have hcount := lt_chunkCount hlen
    obtain ⟨y, hle, hy, hs⟩ := sendRange_stops (a := 0) 0 hlen hx (by omega)
      (show x < 64 * min s.cfgN.toNat (chunkCount s) by omega)
    exact ⟨y, hle, hy, (startEvent_sender hr hrole hok).trans (openSender_of_error hs)⟩
  · obtain ⟨y, hle, hy, hs⟩ := sendRange_stops 1 hlen hx hbase hend
    refine ⟨y, hle, hy, ?_⟩
    rw [exec, execTxTick, tickEvent, hw]
    exact senderTick_of_error ht hs
  · subst hbase'
    obtain ⟨y, hle, hy, hs⟩ := sendRange_stops 0 hlen hx hnext hend
    refine ⟨y, hle, hy, ?_⟩
    rw [exec, execTxRecv, recvEvent, hw]
    simp only [senderRecv_frame hraw, if_pos hd, advanceWindow_of_error htotal hs]

end Sys2Proof.Machine
end

section
/-! SUPPORT. Proofs on the decoder and on the dispatch of an event (30_encoding.md): first the row that an event of each
code is, then the round trip between operations and images, the table of R57, and the output port's fields. -/

namespace Sys2Proof

/-! ### The row of an event, by its code (R54) -/

/-- The codes with a row of their own, and the eight of RSV (0x8-0xF). -/
theorem code_cases (c : BitVec 4) :
    c = 0 ∨ c = 1 ∨ c = 2 ∨ c = 3 ∨ c = 4 ∨ c = 5 ∨ c = 6 ∨ c = 7 ∨ 8 ≤ c.toNat := by
  revert c
  decide

section
variable (sel : Selector) {e : Event}

theorem select_nop (h : e.code = 0) : select sel e = .nop := by simp [select, h]

theorem select_cfgwr (h : e.code = 1) : select sel e = .cfgwr e.reg e.val := by simp [select, h]

theorem select_start (h : e.code = 2) : select sel e = selectStart sel := by simp [select, h]

theorem select_tick (h : e.code = 3) : select sel e = selectTick sel := by simp [select, h]

theorem select_recv (h : e.code = 4) : select sel e = selectRecv sel e := by simp [select, h]

theorem select_pack (h : e.code = 5) : select sel e = .pack e.len (headerOperand e) (payloadOperand e) := by
  simp [select, h]

theorem select_unpack (h : e.code = 6) : select sel e = .unpack e.len (frameOperand e) := by simp [select, h]

theorem select_rsv7 (h : e.code = 7) : select sel e = .rsv7 := by simp [select, h]

theorem select_rsv8F (h : 8 ≤ e.code.toNat) : select sel e = .rsv8F e.code := by
  simp only [select]
  split
  case h_9 => rfl
  all_goals omega

end

/-! ### The rows that share a code (R57) -/

section
variable {sel : Selector}

theorem selectStart_txStart (h : Instr.txStart.rowHolds sel = true) : selectStart sel = .txStart := by
  simp_all [Instr.rowHolds, selectStart]

theorem selectStart_rxStart (h : Instr.rxStart.rowHolds sel = true) : selectStart sel = .rxStart := by
  simp_all [Instr.rowHolds, selectStart]

/-- START is the row of code 2 where neither of the other two is. -/
theorem start_rowHolds (sel : Selector) :
    Instr.start.rowHolds sel = !(Instr.txStart.rowHolds sel || Instr.rxStart.rowHolds sel) := by
  simp [Instr.rowHolds, Bool.and_or_distrib_left]

theorem selectStart_start (h : Instr.start.rowHolds sel = true) : selectStart sel = .start := by
  simp only [selectStart]
  split
  · simp_all [Instr.rowHolds]
  · rfl

theorem selectTick_of_rxWait (h : sel.state = .rxWait) : selectTick sel = .rxTick := if_pos h

theorem selectTick_of_ne (h : sel.state ≠ .rxWait) : selectTick sel = .txTick := if_neg h

theorem selectRecv_of_rxWait (h : sel.state = .rxWait) (e : Event) :
    selectRecv sel e = .rxRecv e.len (frameOperand e) := if_pos h

theorem selectRecv_of_ne (h : sel.state ≠ .rxWait) (e : Event) :
    selectRecv sel e = .txRecv e.len (frameOperand e) := if_neg h

end

/-! ### From an operation to its image and back -/

theorem headerOperand_ok (c : BitVec 4) (len : BitVec 7) (hd : Header) (payload : List Byte) :
    headerOperand { Event.plain c with len := len, data := hd.bytes ++ payload } = hd := rfl

/-- The event that carries an operation is that operation in every context that selects its row. -/
theorem select_event {sel : Selector} {i : Instr} (hwf : i.wellFormed = true) (hrow : i.rowHolds sel = true) :
    select sel i.event = i := by
  cases i with
  | nop => exact select_nop sel rfl
  | cfgwr => exact select_cfgwr sel rfl
  | start => exact (select_start sel rfl).trans (selectStart_start hrow)
  | txStart => exact (select_start sel rfl).trans (selectStart_txStart hrow)
  | rxStart => exact (select_start sel rfl).trans (selectStart_rxStart hrow)
  | txTick => exact (select_tick sel rfl).trans (selectTick_of_ne (bne_iff_ne.mp hrow))
  | rxTick => exact (select_tick sel rfl).trans (selectTick_of_rxWait (eq_of_beq hrow))
  | txRecv len raw =>
    rw [select_recv sel rfl, selectRecv_of_ne (bne_iff_ne.mp hrow), Instr.event, frameOperand_ok hwf]
  | rxRecv len raw =>
    rw [select_recv sel rfl, selectRecv_of_rxWait (eq_of_beq hrow), Instr.event, frameOperand_ok hwf]
  | pack len hd payload => rw [select_pack sel rfl, Instr.event, headerOperand_ok, payloadOperand_ok hwf]
  | unpack len raw => rw [select_unpack sel rfl, Instr.event, frameOperand_ok hwf]
  | rsv7 => exact select_rsv7 sel rfl
  | rsv8F c => exact select_rsv8F sel (of_decide_eq_true hwf)

theorem decode_encode {sel : Selector} {i : Instr} (hwf : i.wellFormed = true) (hrow : i.rowHolds sel = true) :
    decode sel (encode i) = .ok i := by
  rw [encode, decode_encodeEvent, select_event hwf hrow]

/-- Settles O1: an image keeps the operands of its event, and the event selects the row. -/
theorem decodeEncodeRoundTrip : Obligations.DecodeEncodeRoundTrip := by
  unfold Obligations.DecodeEncodeRoundTrip
  exact fun _ _ hwf hrow => decode_encode hwf hrow

/-- Settles O4: each image that decodes is, byte by byte, the image of its operation. -/
theorem writtenImagesDecode : Obligations.WrittenImagesDecode := by
  unfold Obligations.WrittenImagesDecode
  exact ⟨decode_encode (i := .cfgwr 1 4) rfl rfl, decode_encode (i := .txStart) rfl rfl,
    decode_encode (i := .rxTick) rfl rfl, decode_encode (i := .rxRecv 8 [0, 0, 2, 0, 7, 0, 0, 0xA2]) rfl rfl,
    decode_encode (i := .pack 2 ⟨1, 2, 3, 4, 7, 0, 0xFF⟩ [0xAA, 0xBB]) rfl rfl,
    decode_encode (i := .rsv8F 9) rfl rfl, rfl⟩

/-! ### From an image to its operation -/

/-- What R53, R54 and R57 ask of the operation that an event is read as. -/
structure IsRowOf (sel : Selector) (e : Event) (i : Instr) : Prop where
  wellFormed : i.wellFormed = true
  rowHolds   : i.rowHolds sel = true
  code       : i.code = e.code

theorem selectStart_isRowOf (sel : Selector) {e : Event} (h : e.code = 2) : IsRowOf sel e (selectStart sel) := by
  by_cases ht : Instr.txStart.rowHolds sel = true
  · rw [selectStart_txStart ht]
    exact ⟨rfl, ht, h.symm⟩
  · by_cases hr : Instr.rxStart.rowHolds sel = true
    · rw [selectStart_rxStart hr]
      exact ⟨rfl, hr, h.symm⟩
    · have hs : Instr.start.rowHolds sel = true := by simp [start_rowHolds, ht, hr]
      rw [selectStart_start hs]
      exact ⟨rfl, hs, h.symm⟩

theorem selectTick_isRowOf (sel : Selector) {e : Event} (h : e.code = 3) : IsRowOf sel e (selectTick sel) := by
  by_cases hs : sel.state = .rxWait
  · rw [selectTick_of_rxWait hs]
    exact ⟨rfl, beq_iff_eq.mpr hs, h.symm⟩
  · rw [selectTick_of_ne hs]
    exact ⟨rfl, bne_iff_ne.mpr hs, h.symm⟩

theorem selectRecv_isRowOf (sel : Selector) {e : Event} (h : e.code = 4) : IsRowOf sel e (selectRecv sel e) := by
  by_cases hs : sel.state = .rxWait
  · rw [selectRecv_of_rxWait hs]
    exact ⟨frameOperand_wf e, beq_iff_eq.mpr hs, h.symm⟩
  · rw [selectRecv_of_ne hs]
    exact ⟨frameOperand_wf e, bne_iff_ne.mpr hs, h.symm⟩

theorem select_isRowOf (sel : Selector) (e : Event) : IsRowOf sel e (select sel e) := by
  rcases code_cases e.code with h | h | h | h | h | h | h | h | h
  · rw [select_nop sel h]; exact ⟨rfl, rfl, h.symm⟩
  · rw [select_cfgwr sel h]; exact ⟨rfl, rfl, h.symm⟩
  · rw [select_start sel h]; exact selectStart_isRowOf sel h
  · rw [select_tick sel h]; exact selectTick_isRowOf sel h
  · rw [select_recv sel h]; exact selectRecv_isRowOf sel h
  · rw [select_pack sel h]; exact ⟨payloadOperand_wf e, rfl, h.symm⟩
  · rw [select_unpack sel h]; exact ⟨frameOperand_wf e, rfl, h.symm⟩
  · rw [select_rsv7 sel h]; exact ⟨rfl, rfl, h.symm⟩
  · rw [select_rsv8F sel h]; exact ⟨decide_eq_true h, rfl, rfl⟩

theorem decode_eq_ok {sel : Selector} {image : List Byte} {i : Instr} (h : decode sel image = .ok i) :
    ∃ e, decodeImage image = .ok e ∧ select sel e = i := by
  simp only [decode] at h
  split at h
  · cases h
    exact ⟨_, ‹_›, rfl⟩
  · cases h

/-- In one context an image is the image of at most one operation. -/
theorem encode_injective {sel : Selector} {i j : Instr} (hi : i.wellFormed = true) (hirow : i.rowHolds sel = true)
    (hj : j.wellFormed = true) (hjrow : j.rowHolds sel = true) (h : encode i = encode j) : i = j := by
  have hd := decode_encode hi hirow
  rw [h, decode_encode hj hjrow] at hd
  cases hd
  rfl

/-- Settles O2: an event is read as a row of its own code, and the round trip leaves no second one. -/
theorem decodeGivesTheRowThatHolds : Obligations.DecodeGivesTheRowThatHolds := by
  unfold Obligations.DecodeGivesTheRowThatHolds
  intro sel image i h
  obtain ⟨e, he, rfl⟩ := decode_eq_ok h
  obtain ⟨hwf, hrow, hcode⟩ := select_isRowOf sel e
  exact ⟨hwf, hrow, ⟨e, he, hcode⟩, fun j hj hjrow henc => encode_injective hj hjrow hwf hrow henc⟩

end Sys2Proof

namespace Sys2Proof.Machine

/-! ### What an event of each code runs (R57) -/

section
variable {e : Event} (s : State)

theorem acceptEvent_nop (h : e.code = 0) : acceptEvent e s = .next s := by
  rw [acceptEvent, select_nop _ h]; rfl

theorem acceptEvent_cfgwr (h : e.code = 1) : acceptEvent e s = execCfgwr e.reg e.val s := by
  rw [acceptEvent, select_cfgwr _ h]; rfl

/-- The three rows of code 2 have one meaning. -/
theorem acceptEvent_start (h : e.code = 2) : acceptEvent e s = startEvent s := by
  rw [acceptEvent, select_start _ h, selectStart]
  split
  · split
    · rfl
    · split <;> rfl
  · rfl

theorem acceptEvent_tick (h : e.code = 3) : acceptEvent e s = tickEvent s := by
  rw [acceptEvent, select_tick _ h, selectTick]
  split <;> rfl

theorem acceptEvent_recv (h : e.code = 4) : acceptEvent e s = recvEvent e.len (frameOperand e) s := by
  rw [acceptEvent, select_recv _ h, selectRecv]
  split <;> rfl

theorem acceptEvent_pack (h : e.code = 5) :
    acceptEvent e s = .next (emit s [packResult e.len (headerOperand e) (payloadOperand e)]) := by
  rw [acceptEvent, select_pack _ h]; rfl

theorem acceptEvent_unpack (h : e.code = 6) :
    acceptEvent e s = .next (emit s [unpackResult e.len (frameOperand e)]) := by
  rw [acceptEvent, select_unpack _ h]; rfl

theorem acceptEvent_reserved (h : 7 ≤ e.code.toNat) : acceptEvent e s = reservedEvent s := by
  rcases Nat.eq_or_lt_of_le h with h7 | h8
  · rw [acceptEvent, select_rsv7 _ (BitVec.eq_of_toNat_eq h7.symm)]; rfl
  · rw [acceptEvent, select_rsv8F _ h8]; rfl

end

/-! ### The event of an operation does what the operation does -/

/-- The context selects a row of the event's code, and the rows of one code have one meaning. -/
theorem acceptEvent_event {i : Instr} (hwf : i.wellFormed = true) (s : State) : acceptEvent i.event s = exec i s := by
  cases i with
  | nop => exact acceptEvent_nop s rfl
  | cfgwr => exact acceptEvent_cfgwr s rfl
  | start | txStart | rxStart => exact acceptEvent_start s rfl
  | txTick | rxTick => exact acceptEvent_tick s rfl
  | txRecv len raw | rxRecv len raw =>
    rw [acceptEvent_recv s rfl, Instr.event, frameOperand_ok hwf]
    rfl
  | pack len hd payload =>
    rw [acceptEvent_pack s rfl, Instr.event, headerOperand_ok, payloadOperand_ok hwf]
    rfl
  | unpack len raw =>
    rw [acceptEvent_unpack s rfl, Instr.event, frameOperand_ok hwf]
    rfl
  | rsv7 => exact acceptEvent_reserved s (by decide)
  | rsv8F c => exact acceptEvent_reserved s (Nat.le_of_lt (of_decide_eq_true hwf))

/-- What an event runs depends on its image alone. -/
theorem acceptEvent_eq_of_image {e e' : Event} (h : encodeEvent e = encodeEvent e') (s : State) :
    acceptEvent e s = acceptEvent e' s := by
  have hd := decode_encodeEvent (selectorOf s) e
  rw [h, decode_encodeEvent] at hd
  rw [acceptEvent, acceptEvent, Except.ok.inj hd]

/-- Settles O6: both operations do what the event of their image does. -/
theorem rowsOfOneEventAgree : Obligations.RowsOfOneEventAgree := by
  unfold Obligations.RowsOfOneEventAgree
  intro i j s hi hj h
  calc exec i s = acceptEvent i.event s := (acceptEvent_event hi s).symm
    _ = acceptEvent j.event s := acceptEvent_eq_of_image h s
    _ = exec j s := acceptEvent_event hj s

/-! ### The entries of the table, by STATE -/

section
variable {s : State}

theorem execCfgwr_ready (h : s.ctl.ready = true) (k : BitVec 8) (v : Word) :
    execCfgwr k v s = .next (match writeCfg s k v with | some t => t | none => takeFault .illegalOp s) := by
  rcases ready_cases h with hc | hc | hc <;> simp only [execCfgwr, hc] <;> cases writeCfg s k v <;> rfl

theorem execCfgwr_open (h : connectionOpen s.ctl = true) (k : BitVec 8) (v : Word) :
    execCfgwr k v s = .next (takeFault .illegalOp s) := by
  rcases open_cases h with hc | hc <;> simp only [execCfgwr, hc]

theorem execCfgwr_error (h : s.ctl = .error) (k : BitVec 8) (v : Word) : execCfgwr k v s = .next s := by
  simp only [execCfgwr, h]

theorem startEvent_receiver (hr : s.ctl.ready = true) (hrole : s.cfgRole = 1) (hok : receiverConfigOk s = true) :
    startEvent s = openReceiver s := by
  rw [startEvent_ready hr, startRole, hrole, if_neg (by decide), if_pos rfl, if_pos hok]

/-- A failing check of R107, roles 2 and 3 included. -/
theorem startEvent_invalidMode (hr : s.ctl.ready = true) (hok : startOk s = false) :
    startEvent s = .next (takeFault .invalidMode s) := by
  rw [startEvent_ready hr]
  simp only [startOk] at hok
  simp only [startRole]
  split <;> simp_all

theorem startEvent_error (h : s.ctl = .error) : startEvent s = .next s := by simp only [startEvent, h]

theorem reservedEvent_fault (h : s.ctl ≠ .error) : reservedEvent s = .next (takeFault .illegalOp s) := by
  simp only [reservedEvent]
  split
  · exact absurd ‹_› h
  all_goals rfl

theorem reservedEvent_error (h : s.ctl = .error) : reservedEvent s = .next s := by simp only [reservedEvent, h]

end

/-- Settles O3: the event of each code is the shared operation of its rows, and the lemmas above give its entries. -/
theorem eventRunsTheTableEntry : Obligations.EventRunsTheTableEntry := by
  unfold Obligations.EventRunsTheTableEntry
  intro e s
  refine ⟨acceptEvent_nop s, fun hc => ?_, fun hc => ?_, fun hc => ?_, fun hc => ?_, acceptEvent_pack s,
    acceptEvent_unpack s, fun hc => ?_⟩
  · rw [acceptEvent_cfgwr s hc]
    exact ⟨fun h => execCfgwr_ready h _ _, fun h => execCfgwr_open h _ _, fun h => execCfgwr_error h _ _⟩
  · rw [acceptEvent_start s hc]
    refine ⟨fun hr h0 hok => startEvent_sender hr h0 ((senderConfigOk_iff s).mp hok),
      fun hr h0 hok => startEvent_invalidMode hr ?_, fun hr h1 hok => startEvent_receiver hr h1 hok,
      fun hr h1 hok => startEvent_invalidMode hr ?_, fun hr h0 h1 => startEvent_invalidMode hr ?_,
      startEvent_open, startEvent_error⟩
    all_goals simp_all [startOk]
  · rw [acceptEvent_tick s hc]
    exact ⟨fun h => by rw [tickEvent, h], fun h => by rw [tickEvent, h], tickEvent_closed⟩
  · rw [acceptEvent_recv s hc]
    exact ⟨fun h => by rw [recvEvent, h], fun h => by rw [recvEvent, h], fun h => recvEvent_closed h _ _⟩
  · rw [acceptEvent_reserved s hc]
    exact ⟨reservedEvent_fault, reservedEvent_error⟩

/-! ### One step -/

theorem step_event {s : State} {e : Event} {rest : List Input} (h : s.inputs = .event e :: rest) :
    step s = acceptEvent e { s with inputs := rest, outq := [], reply := none } := by
  rw [step, runNext, h]
  rfl

theorem step_nothing {s : State} (h : s.inputs = []) : step s = .next (settle s) := by
  rw [step, runNext, h]

theorem withFetchWord_of_decodeImage {nbits w : Nat} {e : Event} (h : decodeImage (imageOfWord nbits w) = .ok e)
    (s : State) : s.withFetchWord nbits w = presentEvent e s := by
  rw [State.withFetchWord, presentImage, h]

/-- Settles O5: the context reads no port field, so taking the event does not change the row it is. -/
theorem stepRunsTheDecodedEvent : Obligations.StepRunsTheDecodedEvent := by
  unfold Obligations.StepRunsTheDecodedEvent
  refine ⟨fun s e rest i hin hdec => ?_, fun s h => step_nothing h, fun s nbits w i hdec => ?_⟩
  · rw [decode_encodeEvent] at hdec
    cases hdec
    exact step_event hin
  · obtain ⟨e, he, rfl⟩ := decode_eq_ok hdec
    rw [withFetchWord_of_decodeImage he]
    exact step_event rfl

/-! ### The output port (R59, R60) -/

/-- The 7 bits of `out_len` hold the length of every frame. -/
theorem ofNat_frameLength {n : Nat} (h : n ≤ 71) : (BitVec.ofNat 7 n).toNat = n := by
  rw [BitVec.toNat_ofNat]
  omega

/-- Settles O53. -/
theorem outputPortShowsTheFrame : Obligations.OutputPortShowsTheFrame := by
  unfold Obligations.OutputPortShowsTheFrame
  refine ⟨fun bytes h => ⟨rfl, rfl, ofNat_frameLength h, takePad_append h⟩, rfl, rfl, rfl,
    takePad_append (l := []) (Nat.zero_le 71), fun c bytes h => ⟨rfl, ?_, ofNat_frameLength h, takePad_append h⟩⟩
  cases c <;> rfl

end Sys2Proof.Machine
end

section
/-! SUPPORT. Proofs on the frame codec (40_codec.md): the two flag masks as bit 0, `unpack` after `pack` and `pack` after
`unpack`, and the one Result of PACK and of UNPACK. -/

namespace Sys2Proof.Machine

/-! ### The flag byte (R65, R69) -/

/-- The flag mask keeps bit 0 of any byte that agrees with the integer modulo 2. -/
theorem mask1_of_emod_two {v : Int} {b : Byte} (h : v % 2 = (b.toNat % 2 : Nat)) : mask1 v = b &&& 1 := by
  have hv := mask1_toNat v
  have hb : (b &&& 1).toNat = b.toNat % 2 := by rw [BitVec.toNat_and]; exact Nat.and_one_is_mod _
  apply BitVec.eq_of_toNat_eq
  omega

theorem mask1_byte (b : Byte) : mask1 (b.toNat : Int) = b &&& 1 := mask1_of_emod_two (Int.natCast_mod _ _).symm

theorem mask1_flagBit (b : Byte) : mask1 (flagBit b) = b &&& 1 :=
  mask1_of_emod_two (by rw [flagBit, Int.natCast_mod]; exact Int.emod_emod _ _)

/-! ### pack and unpack -/

/-- Settles O7: the seven bytes are the masks of the fields, and each mask is its reduction. -/
theorem packMasksTheHeader : Obligations.PackMasksTheHeader := by
  unfold Obligations.PackMasksTheHeader
  exact fun f => ⟨packFrame_length f, rfl, mask8_toNat f.sp, mask8_toNat f.dp, mask8_toNat f.seq, mask8_toNat f.ack,
    mask8_toNat f.doff, mask8_toNat f.win, mask1_toNat f.rtx⟩

/-- Settles O8: the three ranges of the length are the three lemmas on `unpackFrame`. -/
theorem unpackJudgesByLength : Obligations.UnpackJudgesByLength := by
  unfold Obligations.UnpackJudgesByLength
  refine fun n raw => ⟨?_, fun h h' => unpackFrame_short h h' raw, fun h => unpackFrame_long h raw, fun h h' hl => ?_⟩
  · rintro rfl
    exact unpackFrame_zero raw
  · exact ⟨unpackFrame_frame h h' (hl ▸ h), by rw [List.length_drop, hl]⟩

/-- Unpacking a packed frame reduces its header fields, whatever integers they were (R65). -/
theorem unpackFrame_packFrame {n : Nat} (h : 7 ≤ n) (h' : n ≤ 71) (f : Frame) :
    unpackFrame n (packFrame f) = .frame
      { sp := f.sp % 256, dp := f.dp % 256, seq := f.seq % 256, ack := f.ack % 256, doff := f.doff % 256,
        win := f.win % 256, rtx := f.rtx % 2, payload := f.payload } := by
  rw [unpackFrame_frame h h' (by rw [packFrame_length]; omega)]
  simp [packFrame, mask8_toNat, flagBit_mask1]

/-- A byte string that unpacks to a frame packs back but for bits 7:1 of byte 6 (R70). -/
theorem exists_unpackFrame_packFrame {n : Nat} {raw : List Byte} (h : 7 ≤ n) (h' : n ≤ 71) (hl : 7 ≤ raw.length) :
    ∃ f, unpackFrame n raw = .frame f ∧ packFrame f = raw.set 6 (raw.getD 6 0 &&& 1) := by
  refine ⟨_, unpackFrame_frame h h' hl, ?_⟩
  match raw, hl with
  | a :: b :: c :: d :: e :: f :: g :: p, _ =>
    simp only [packFrame, mask8_byte, mask1_flagBit]
    rfl

/-- Settles O9: a field below 256 is its own reduction, and packing keeps all but the flag byte's upper bits. -/
theorem unpackInvertsPack : Obligations.UnpackInvertsPack := by
  unfold Obligations.UnpackInvertsPack
  refine ⟨fun f sp0 sp1 dp0 dp1 seq0 seq1 ack0 ack1 doff0 doff1 win0 win1 hp => ?_,
    fun raw h h' => exists_unpackFrame_packFrame h h' h⟩
  rw [packFrame_length, unpackFrame_packFrame (by omega) (by omega), Int.emod_eq_of_lt sp0 sp1,
    Int.emod_eq_of_lt dp0 dp1, Int.emod_eq_of_lt seq0 seq1, Int.emod_eq_of_lt ack0 ack1, Int.emod_eq_of_lt doff0 doff1,
    Int.emod_eq_of_lt win0 win1]

/-! ### PACK and UNPACK -/

/-- PACK and UNPACK append their Result to the outputs and write nothing else, in every state (R71). -/
theorem exec_pack (len : BitVec 7) (h : Header) (payload : List Byte) (s : State) :
    exec (.pack len h payload) s = .next { s with outq := s.outq ++ [packResult len h payload] } := rfl

theorem exec_unpack (len : BitVec 7) (raw : List Byte) (s : State) :
    exec (.unpack len raw) s = .next { s with outq := s.outq ++ [unpackResult len raw] } := rfl

/-- The header operand's fields are bytes already, so only the flag byte is cut. -/
theorem packFrame_headerFrame (h : Header) (payload : List Byte) :
    packFrame (headerFrame h payload) = [h.sp, h.dp, h.seq, h.ack, h.doff, h.win, h.rtx &&& 1] ++ payload := by
  simp only [packFrame, headerFrame, mask8_byte, mask1_byte]

theorem packResult_frame {len : BitVec 7} (hl : len.toNat ≤ 64) (h : Header) (payload : List Byte) :
    packResult len h payload =
      .result .frame ([h.sp, h.dp, h.seq, h.ack, h.doff, h.win, h.rtx &&& 1] ++ payload) := by
  rw [packResult, if_neg (Nat.not_lt.mpr hl), packFrame_headerFrame]

theorem packResult_badLen {len : BitVec 7} (hl : 64 < len.toNat) (h : Header) (payload : List Byte) :
    packResult len h payload = .result .badLen [] := if_pos hl

theorem unpackResult_noFrame (raw : List Byte) : unpackResult 0 raw = .result .noFrame [] := rfl

theorem unpackResult_malformed {len : BitVec 7} (h : isMalformedLength len) (raw : List Byte) :
    unpackResult len raw = .result .malformed [] := by
  rw [unpackResult, unpackFrame_malformed h]

theorem unpackResult_frame {len : BitVec 7} {raw : List Byte} (h : isFrameOperand len raw) :
    unpackResult len raw = .result .frame (raw.set 6 (raw.getD 6 0 &&& 1)) := by
  obtain ⟨h7, h71, hl⟩ := h
  obtain ⟨f, hf, hp⟩ := exists_unpackFrame_packFrame h7 h71 (hl ▸ h7)
  rw [unpackResult, hf, ← hp]

/-- Settles O10: the Result is BADLEN above 64 payload bytes and the packed frame up to there. -/
theorem packEmitsOneResult : Obligations.PackEmitsOneResult := by
  unfold Obligations.PackEmitsOneResult
  refine fun s len h payload => ⟨fun hl _ => ?_, fun hl => ?_⟩
  · rw [exec_pack, packResult_frame hl]
  · rw [exec_pack, packResult_badLen hl]

/-- Settles O11: the Result is the verdict of `unpack`, a frame laid out again by `pack`. -/
theorem unpackEmitsOneResult : Obligations.UnpackEmitsOneResult := by
  unfold Obligations.UnpackEmitsOneResult
  refine fun s len raw => ⟨?_, fun h => ?_, fun h => ?_⟩
  · rintro rfl
    rw [exec_unpack, unpackResult_noFrame]
  · rw [exec_unpack, unpackResult_malformed h]
  · rw [exec_unpack, unpackResult_frame h]

end Sys2Proof.Machine
end

section
/-! SUPPORT. Proofs on the sender (41_sender.md): what each of its rules does when the bytes it sends are written, and
what a run of TICKs alone does. -/

namespace Sys2Proof.Machine

/-! ### START (R78) -/

/-- R78, with the bytes of the initial burst written. -/
theorem openSender_of_written {s : State} (h : framesWritten s 0 (min s.cfgN.toNat (chunkCount s))) :
    openSender s = .next { s with
      txTotal := BitVec.ofNat 32 (chunkCount s), txBase := 0,
      txNext := BitVec.ofNat 32 (min s.cfgN.toNat (chunkCount s)), timer := 0, malf := false,
      ctl := (if chunkCount s = 0 then .txDone else .txWait),
      outq := s.outq ++ wireSends s 0 0 (min s.cfgN.toNat (chunkCount s)) ++
        (if chunkCount s = 0 then [.close] else []) } := by
  have hburst : sendRange s 0 (min s.cfgN.toNat (chunkCount s)) 0 = .ok (wireSends s 0 0 _) := sendRange_of_written 0 h
  simp only [openSender, hburst]
  split <;> simp [emit]

/-- Settles O14: R107 leads to R78, whose `total` is the number of chunks. -/
theorem startOpensTheSender : Obligations.StartOpensTheSender := by
  unfold Obligations.StartOpensTheSender
  rintro s _ _ hr hrole hok rfl rfl h
  exact ⟨(startEvent_sender hr hrole hok).trans (openSender_of_written h), rfl⟩

/-! ### TICK in `TX_WAIT` (R79, R80) -/

theorem tickEvent_txWait {s : State} (hw : s.ctl = .txWait) : tickEvent s = senderTick s := by rw [tickEvent, hw]

theorem tickEvent_rxWait {s : State} (hw : s.ctl = .rxWait) : tickEvent s = receiverTick s := by rw [tickEvent, hw]

theorem senderTick_counts {s : State} (ht : s.timer.toNat + 1 < s.cfgT.toNat) :
    senderTick s = .next { s with timer := s.timer + 1 } := by
  rw [senderTick, if_neg (Nat.not_le_of_lt ht), ofNat_timer_succ]

/-- The timeout, with the bytes of the outstanding window written. -/
theorem senderTick_timesOut {s : State} (ht : s.cfgT.toNat ≤ s.timer.toNat + 1)
    (h : framesWritten s s.txBase.toNat (windowEnd s s.txBase.toNat)) :
    senderTick s = .next { s with
      timer := 0, outq := s.outq ++ wireSends s 1 s.txBase.toNat (windowEnd s s.txBase.toNat) } := by
  have hresent : sendRange s s.txBase.toNat (windowEnd s s.txBase.toNat) 1 = .ok (wireSends s 1 _ _) :=
    sendRange_of_written 1 h
  rw [senderTick, if_pos ht, hresent]
  rfl

/-- Settles O21. -/
theorem senderTickCountsAndTimesOut : Obligations.SenderTickCountsAndTimesOut := by
  unfold Obligations.SenderTickCountsAndTimesOut
  rintro s _ hw rfl
  exact ⟨fun ht => (tickEvent_txWait hw).trans (senderTick_counts ht),
    fun ht h => (tickEvent_txWait hw).trans (senderTick_timesOut ht h)⟩

/-- R28 in the invariant: the frames of the outstanding window are those below `TX_NEXT`, which have been sent. -/
theorem SenderInv.windowWritten {s : State} (h : SenderInv s) :
    framesWritten s s.txBase.toNat (windowEnd s s.txBase.toNat) := by
  intro x _ hx
  refine h.written x ?_
  rwa [sentBytes, h.next]

theorem senderTick_completes {s : State} (h : SenderInv s) : ∃ t, senderTick s = .next t := by
  rcases Nat.lt_or_ge (s.timer.toNat + 1) s.cfgT.toNat with ht | ht
  · exact ⟨_, senderTick_counts ht⟩
  · exact ⟨_, senderTick_timesOut ht h.windowWritten⟩

theorem receiverTick_completes (s : State) : ∃ t, receiverTick s = .next t := by
  rw [receiverTick]
  split <;> exact ⟨_, rfl⟩

theorem tickEvent_completes {s : State} (h : s.Inv) : ∃ t, tickEvent s = .next t := by
  cases hopen : connectionOpen s.ctl with
  | false => exact ⟨s, tickEvent_closed hopen⟩
  | true =>
    rcases open_cases hopen with hw | hw
    · rw [tickEvent_txWait hw]
      exact senderTick_completes (h.sender hw)
    · rw [tickEvent_rxWait hw]
      exact receiverTick_completes s

/-- Settles O50: the two rows of code 3 have one meaning. -/
theorem ticksNeverStop : Obligations.TicksNeverStop := by
  unfold Obligations.TicksNeverStop
  exact fun s h => ⟨tickEvent_completes h, tickEvent_completes h⟩

/-! ### RECV in a wait state (R82) -/

theorem recvEvent_txWait {s : State} (hw : s.ctl = .txWait) (len : BitVec 7) (raw : List Byte) :
    recvEvent len raw s = senderRecv len raw s := by rw [recvEvent, hw]

theorem recvEvent_rxWait {s : State} (hw : s.ctl = .rxWait) (len : BitVec 7) (raw : List Byte) :
    recvEvent len raw s = receiverRecv len raw s := by rw [recvEvent, hw]

/-- A valid ACK (R77). -/
theorem recvEvent_validAck {s : State} {len : BitVec 7} {raw : List Byte} (hw : s.ctl = .txWait)
    (hraw : isFrameOperand len raw) (hd : wireAckDistance s raw < s.cfgN.toNat) :
    recvEvent len raw s = advanceWindow s (wireAckDistance s raw) := by
  rw [recvEvent_txWait hw, senderRecv_frame hraw, if_pos hd]

theorem advanceWindow_completes {s : State} {d : Nat} (hd : s.txTotal.toNat ≤ s.txBase.toNat + d + 1) :
    advanceWindow s d = .next { s with
      timer := 0, txBase := BitVec.ofNat 32 (s.txBase.toNat + d + 1), ctl := .txDone,
      outq := s.outq ++ [.close] } := by
  simp only [advanceWindow, if_pos hd]
  rfl

/-- R84, with the bytes of the frames that enter the window written. -/
theorem advanceWindow_fills {s : State} {d : Nat} (hd : s.txBase.toNat + d + 1 < s.txTotal.toNat)
    (h : framesWritten s s.txNext.toNat (windowEnd s (s.txBase.toNat + d + 1))) :
    advanceWindow s d = .next { s with
      timer := 0, txBase := BitVec.ofNat 32 (s.txBase.toNat + d + 1),
      txNext := BitVec.ofNat 32 (max s.txNext.toNat (windowEnd s (s.txBase.toNat + d + 1))),
      outq := s.outq ++ wireSends s 0 s.txNext.toNat (windowEnd s (s.txBase.toNat + d + 1)) } := by
  have hfill : sendRange s s.txNext.toNat (windowEnd s (s.txBase.toNat + d + 1)) 0 = .ok (wireSends s 0 _ _) :=
    sendRange_of_written 0 h
  simp only [advanceWindow, if_neg (Nat.not_le_of_lt hd), hfill]
  rfl

/-- Settles O22. -/
theorem senderIgnoresAnInvalidAck : Obligations.SenderIgnoresAnInvalidAck := by
  unfold Obligations.SenderIgnoresAnInvalidAck
  intro s len raw hw hraw hd
  rw [exec, execTxRecv, recvEvent_txWait hw, senderRecv_frame hraw, if_neg (Nat.not_lt_of_le hd)]

/-- Settles O23. -/
theorem senderFillsTheWindowOnAValidAck : Obligations.SenderFillsTheWindowOnAValidAck := by
  unfold Obligations.SenderFillsTheWindowOnAValidAck
  rintro s len raw _ _ hw hraw hd rfl htotal rfl h
  exact (recvEvent_validAck hw hraw hd).trans (advanceWindow_fills htotal h)

/-- Settles O24. -/
theorem senderCompletesOnTheLastAck : Obligations.SenderCompletesOnTheLastAck := by
  unfold Obligations.SenderCompletesOnTheLastAck
  rintro s len raw _ hw hraw hd rfl htotal
  exact (recvEvent_validAck hw hraw hd).trans (advanceWindow_completes htotal)

/-- Settles O25: both roles set `MALF` on the verdict Malformed (R86, R101). -/
theorem malformedFramesOnlySetMalf : Obligations.MalformedFramesOnlySetMalf := by
  unfold Obligations.MalformedFramesOnlySetMalf
  refine fun s len raw h => ⟨fun hw => ?_, fun hw => ?_⟩
  · rw [exec, execTxRecv, recvEvent_txWait hw, senderRecv, unpackFrame_malformed h]
  · rw [exec, execRxRecv, recvEvent_rxWait hw, receiverRecv, unpackFrame_malformed h]

/-- Settles O26: an empty operand is NoFrame, and the fault closes the open connection. -/
theorem senderFaultsOnPeerClose : Obligations.SenderFaultsOnPeerClose := by
  unfold Obligations.SenderFaultsOnPeerClose
  intro s raw hw
  have hclose : senderRecv 0 raw s = .next (takeFault .peerClosed s) := rfl
  rw [exec, execTxRecv, recvEvent_txWait hw, hclose, takeFault_open .peerClosed (by rw [hw]; rfl)]

/-! ### Runs (R91) -/

theorem runInputs_cons {a : Input} {as : List Input} {s u t : State} {os : List Output}
    (ha : applyInput a (settle s) = .next u) (hr : runInputs as u = .next (t, os)) :
    runInputs (a :: as) s = .next (t, u.outq ++ os) := by
  rw [runInputs, ha, andThen, hr, andThen]

theorem runInputs_singleton {a : Input} {s u : State} (ha : applyInput a (settle s) = .next u) :
    runInputs [a] s = .next (u, u.outq) := by
  rw [runInputs_cons ha rfl, List.append_nil]

theorem arch_settle (s : State) : arch (settle s) = arch s := rfl

/-- The first step of a run clears the ports, so the run does not depend on what was on them. -/
theorem runInputs_congr {as : List Input} {s t : State} (has : as ≠ []) (h : settle s = settle t) :
    runInputs as s = runInputs as t := by
  cases as with
  | nil => exact absurd rfl has
  | cons a as => rw [runInputs, runInputs, h]

theorem runInputs_append {as bs : List Input} {s u t : State} {os ps : List Output}
    (ha : runInputs as s = .next (u, os)) (hb : runInputs bs u = .next (t, ps)) :
    runInputs (as ++ bs) s = .next (t, os ++ ps) := by
  induction as generalizing s os with
  | nil =>
    cases ha
    exact hb
  | cons a as ih =>
    obtain ⟨v, os', hv, hr, rfl⟩ := runInputs_cons_next ha
    rw [List.append_assoc]
    exact runInputs_cons hv (ih hr)

/-- A run that comes back to its state can be repeated. -/
theorem runInputs_repeat {as : List Input} {s u : State} {os : List Output} (has : as ≠ [])
    (hrun : runInputs as s = .next (u, os)) (hu : settle u = settle s) (k : Nat) :
    ∃ t, runInputs (List.replicate k as).flatten s = .next (t, (List.replicate k os).flatten) ∧
      settle t = settle s := by
  induction k with
  | zero => exact ⟨s, rfl, rfl⟩
  | succ k ih =>
    obtain ⟨t, ht, hts⟩ := ih
    refine ⟨u, ?_, hu⟩
    simp only [List.replicate_succ', List.flatten_append, List.flatten_singleton]
    exact runInputs_append ht ((runInputs_congr has hts).trans hrun)

/-- From any point of the wait, the TICKs that are left send nothing until the last one, which sends the window again. -/
theorem runInputs_ticksToTimeout {s : State} {n : Nat} (hw : s.ctl = .txWait)
    (hn : s.timer.toNat + (n + 1) = s.cfgT.toNat)
    (h : framesWritten s s.txBase.toNat (windowEnd s s.txBase.toNat)) :
    ∃ t, runInputs (List.replicate (n + 1) (.event (Event.plain 3))) s =
        .next (t, wireSends s 1 s.txBase.toNat (windowEnd s s.txBase.toNat)) ∧
      settle t = settle { s with timer := 0 } := by
  have htick : applyInput (.event (Event.plain 3)) (settle s) = senderTick (settle s) :=
    (acceptEvent_tick (settle s) rfl).trans (tickEvent_txWait hw)
  induction n generalizing s with
  | zero =>
    have htimeout := htick.trans (senderTick_timesOut (s := settle s) (Nat.le_of_eq hn.symm) h)
    exact ⟨_, runInputs_singleton htimeout, rfl⟩
  | succ n ih =>
    have hlt : s.timer.toNat + 1 < s.cfgT.toNat := by omega
    have hsucc : (s.timer + 1).toNat = s.timer.toNat + 1 := by
      have := s.cfgT.isLt
      rw [← ofNat_timer_succ, BitVec.toNat_ofNat]
      exact Nat.mod_eq_of_lt (by omega)
    have hcount := htick.trans (senderTick_counts (s := settle s) hlt)
    have hrest : (s.timer + 1).toNat + (n + 1) = s.cfgT.toNat := by omega
    obtain ⟨t, ht, hts⟩ := ih (s := { settle s with timer := s.timer + 1 }) hw hrest h
      ((acceptEvent_tick _ rfl).trans (tickEvent_txWait hw))
    exact ⟨t, runInputs_cons hcount ht, hts⟩

/-- Settles O27: `CFG_T` TICKs send the window again and come back to the state, so they can be repeated. -/
theorem senderRetransmitsWithoutLimit : Obligations.SenderRetransmitsWithoutLimit := by
  unfold Obligations.SenderRetransmitsWithoutLimit
  rintro s _ k hw htimer hT rfl h
  obtain ⟨n, hn⟩ := Nat.exists_eq_add_one_of_ne_zero (toNat_pos_of_ne_zero hT).ne'
  have hperiod : s.timer.toNat + (n + 1) = s.cfgT.toNat := by simp [htimer, hn]
  obtain ⟨u, hrun, hu⟩ := runInputs_ticksToTimeout hw hperiod h
  have hback : settle u = settle s := by rw [hu, ← htimer]
  obtain ⟨t, ht, hts⟩ := runInputs_repeat (by simp) hrun hback k
  rw [List.flatten_replicate_replicate, ← hn] at ht
  exact ⟨t, _, ht, by rw [← arch_settle t, hts, arch_settle], rfl⟩

end Sys2Proof.Machine
end

section
/-! SUPPORT. Proofs on the receiver (42_receiver.md): what each of its rules does, then the payloads it has assembled
after any run of requests. -/

namespace Sys2Proof.Machine

/-! ### START and TICK (R93, R94) -/

/-- Settles O15: R107 leads to R93. -/
theorem startOpensTheReceiver : Obligations.StartOpensTheReceiver := by
  unfold Obligations.StartOpensTheReceiver
  exact fun s hr hrole htr => ⟨startEvent_receiver hr hrole ((receiverConfigOk_iff s).mpr htr), rfl⟩

theorem receiverTick_eq (s : State) : receiverTick s =
    .next { s with timer := if s.cfgTr.toNat ≤ s.timer.toNat + 1 then 0 else s.timer + 1 } := by
  rw [receiverTick]
  split
  · rfl
  · rw [ofNat_timer_succ]

/-- Settles O28. -/
theorem receiverTickOnlyCounts : Obligations.ReceiverTickOnlyCounts := by
  unfold Obligations.ReceiverTickOnlyCounts
  exact fun s hw => (tickEvent_rxWait hw).trans (receiverTick_eq s)

/-! ### RECV (R96) -/

section
variable {s t : State} {len : BitVec 7} {raw : List Byte}

theorem exec_rxRecv_rxWait (hw : s.ctl = .rxWait) : exec (.rxRecv len raw) s = receiverRecv len raw s :=
  recvEvent_rxWait hw len raw

theorem receiverRecv_close (raw : List Byte) (s : State) :
    receiverRecv 0 raw s = .next { s with ctl := .rxDone, outq := s.outq ++ [.close] } := rfl

theorem receiverRecv_malformed (h : isMalformedLength len) :
    receiverRecv len raw s = .next { s with malf := true } := by
  rw [receiverRecv, unpackFrame_malformed h]

theorem receiverRecv_expected (hraw : isFrameOperand len raw) (hseq : raw.getD 2 0 = s.rxExp)
    (hfit : s.rxLen.toNat + (len.toNat - 7) ≤ Config.maxLen) :
    receiverRecv len raw s = .next (acceptPayload (raw.drop 7) s) := by
  rw [receiverRecv_frame hraw, if_pos hseq, if_pos hfit]

theorem receiverRecv_overflow (hraw : isFrameOperand len raw) (hseq : raw.getD 2 0 = s.rxExp)
    (hover : Config.maxLen < s.rxLen.toNat + (len.toNat - 7)) :
    receiverRecv len raw s = .next (takeFault .rxOverflow s) := by
  rw [receiverRecv_frame hraw, if_pos hseq, if_neg (Nat.not_le_of_lt hover)]

theorem receiverRecv_unexpected (hraw : isFrameOperand len raw) (hseq : raw.getD 2 0 ≠ s.rxExp) :
    receiverRecv len raw s = .next (discardFrame s) := by
  rw [receiverRecv_frame hraw, if_neg hseq]

theorem discardFrame_eq (s : State) : discardFrame s =
    { s with timer := 0, outq := s.outq ++ [.send (wireAckFrame s (s.rxExp - 1))] } := by
  rw [discardFrame, ackFrame_wire]
  rfl

/-- The ACK of an accepted frame carries the number it was expected under (R99). -/
theorem ackFrame_succ (s : State) (e : Byte) : ackFrame s (e + 1) = wireAckFrame s e := by
  rw [ackFrame_wire, BitVec.add_sub_cancel]

theorem acceptPayload_rxLen_toNat {p : List Byte} (hp : s.rxLen.toNat + p.length ≤ Config.maxLen) :
    (acceptPayload p s).rxLen.toNat = s.rxLen.toNat + p.length := by
  have hmax := maxLen_le
  exact ofNat_index (by omega)

/-- A frame after which the receiver still waits was accepted or discarded; the third case of R96, the overflow, ends
the wait. -/
theorem receiverRecv_frame_cases (hraw : isFrameOperand len raw) (h : receiverRecv len raw s = .next t)
    (ht : t.ctl = .rxWait) :
    (raw.getD 2 0 = s.rxExp ∧ s.rxLen.toNat + (len.toNat - 7) ≤ Config.maxLen ∧ t = acceptPayload (raw.drop 7) s) ∨
    (raw.getD 2 0 ≠ s.rxExp ∧ t = discardFrame s) := by
  by_cases hseq : raw.getD 2 0 = s.rxExp
  · rcases Nat.lt_or_ge Config.maxLen (s.rxLen.toNat + (len.toNat - 7)) with hover | hfit
    · cases (receiverRecv_overflow hraw hseq hover).symm.trans h
      cases ht
    · cases (receiverRecv_expected hraw hseq hfit).symm.trans h
      exact .inl ⟨hseq, hfit, rfl⟩
  · cases (receiverRecv_unexpected hraw hseq).symm.trans h
    exact .inr ⟨hseq, rfl⟩

/-- Exactly one ACK, of the number below the updated `RX_EXP` (R99). -/
theorem receiverRecv_acks (hraw : isFrameOperand len raw) (h : receiverRecv len raw s = .next t)
    (ht : t.ctl = .rxWait) : t.outq = s.outq ++ [.send (wireAckFrame s (t.rxExp - 1))] := by
  rcases receiverRecv_frame_cases hraw h ht with ⟨-, -, rfl⟩ | ⟨-, rfl⟩
  · rw [acceptPayload_outq, acceptPayload_rxExp, ackFrame_wire]
  · rw [discardFrame_outq, discardFrame_rxExp, ackFrame_wire]

/-- RECV of no frame (R100, R101). -/
theorem receiverRecv_noFrame_cases (hlen : isMalformedLength len ∨ len = 0) (h : receiverRecv len raw s = .next t) :
    t = { s with malf := true } ∨ t = { s with ctl := .rxDone, outq := s.outq ++ [.close] } := by
  rcases hlen with hlen | rfl
  · cases (receiverRecv_malformed hlen).symm.trans h
    exact .inl rfl
  · cases (receiverRecv_close raw s).symm.trans h
    exact .inr rfl

end

/-- Settles O29: the state is `acceptPayload` of the frame's bytes from the seventh on. -/
theorem receiverAcceptsTheExpectedFrame : Obligations.ReceiverAcceptsTheExpectedFrame := by
  unfold Obligations.ReceiverAcceptsTheExpectedFrame
  intro s len raw hw hraw hseq hfit
  have ⟨_, _, hl⟩ := hraw
  have hdrop : (raw.drop 7).length = len.toNat - 7 := by rw [List.length_drop, hl]
  have hlen : (acceptPayload (raw.drop 7) s).rxLen.toNat = s.rxLen.toNat + (raw.drop 7).length :=
    acceptPayload_rxLen_toNat (hdrop ▸ hfit)
  refine ⟨_, (exec_rxRecv_rxWait hw).trans (receiverRecv_expected hraw hseq hfit), BitVec.toNat_add _ _,
    hdrop ▸ hlen, fun a => ?_, ?_⟩
  · rw [acceptPayload_rxbuf, Memory.read_writeRange, hlen, List.getElem?_drop]
  · rw [hseq, ← ackFrame_succ]
    rfl

/-- Settles O30. -/
theorem receiverDiscardsAnyOtherFrame : Obligations.ReceiverDiscardsAnyOtherFrame := by
  unfold Obligations.ReceiverDiscardsAnyOtherFrame
  intro s len raw hw hraw hseq
  rw [exec_rxRecv_rxWait hw, receiverRecv_unexpected hraw hseq, discardFrame_eq]

/-- Settles O31: a frame is `receiverRecv_acks`, and without a frame the one new output can be a Close. -/
theorem receiverAcknowledgesEveryFrame : Obligations.ReceiverAcknowledgesEveryFrame := by
  unfold Obligations.ReceiverAcknowledgesEveryFrame
  intro s t len raw hw h
  rw [exec_rxRecv_rxWait hw] at h
  refine ⟨fun hraw ht => ⟨_, receiverRecv_acks hraw h ht, ?_⟩, fun hlen bytes hmem => ?_⟩
  · rw [BitVec.toNat_sub, Nat.add_comm]
    rfl
  · rcases receiverRecv_noFrame_cases hlen h with rfl | rfl
    · exact hmem
    · simpa using hmem

/-- Settles O32: the fault entry closes the open connection. -/
theorem receiverFaultsOnOverflow : Obligations.ReceiverFaultsOnOverflow := by
  unfold Obligations.ReceiverFaultsOnOverflow
  intro s len raw hw hraw hseq hover
  rw [exec_rxRecv_rxWait hw, receiverRecv_overflow hraw hseq hover, takeFault_open .rxOverflow (by rw [hw]; rfl)]

/-- Settles O33. -/
theorem receiverEndsOnPeerClose : Obligations.ReceiverEndsOnPeerClose := by
  unfold Obligations.ReceiverEndsOnPeerClose
  exact fun s raw hw => (exec_rxRecv_rxWait hw).trans (receiverRecv_close raw s)

/-! ### The independent count of the accepted payloads (R97, R98) -/

theorem acceptedPayloads_expected {n : Nat} {raw : List Byte} (h : (raw.getD 2 0).toNat = n % 256) :
    acceptedPayloads n [raw] = [raw.drop 7] := if_pos h

theorem acceptedPayloads_unexpected {n : Nat} {raw : List Byte} (h : (raw.getD 2 0).toNat ≠ n % 256) :
    acceptedPayloads n [raw] = [] := if_neg h

theorem acceptedPayloads_append (n : Nat) (xs ys : List (List Byte)) :
    acceptedPayloads n (xs ++ ys) =
      acceptedPayloads n xs ++ acceptedPayloads (n + (acceptedPayloads n xs).length) ys := by
  induction xs generalizing n with
  | nil => rfl
  | cons raw xs ih =>
    simp only [List.cons_append, acceptedPayloads]
    split
    · rw [ih, List.length_cons, List.cons_append, Nat.add_right_comm, Nat.add_assoc n]
    · exact ih n

/-! ### The assembled payloads (R29, R103) -/

/-- A range reads as `vs` iff byte `k` of `vs` stands at index `k` of the range. -/
theorem Memory.readRange_eq_ok_iff {m : Memory} {a n : Nat} {vs : List Byte} :
    Memory.readRange m a n = .ok vs ↔ vs.length = n ∧ ∀ k, k < n → Memory.read m (a + k) = vs[k]? := by
  induction n generalizing a vs with
  | zero => simp [Memory.readRange, @eq_comm _ []]
  | succ n ih =>
    cases vs with
    | nil =>
      refine iff_of_false (fun h => ?_) (by simp)
      cases Memory.readRange_length h
    | cons v vs =>
      have htail : (∀ k, k < n + 1 → Memory.read m (a + k) = (v :: vs)[k]?) ↔
          Memory.read m a = some v ∧ ∀ k, k < n → Memory.read m (a + 1 + k) = vs[k]? := by
        rw [Nat.forall_lt_succ_left]
        simp only [Nat.add_zero, List.getElem?_cons_zero, List.getElem?_cons_succ, Nat.add_assoc, Nat.add_comm 1]
      rw [htail, List.length_cons, Nat.add_right_cancel_iff, and_left_comm, ← ih, Memory.readRange]
      cases Memory.read m a with
      | none => simp
      | some w => cases Memory.readRange m (a + 1) n <;> simp

/-- The receiver holds the payloads `ps` in this order, and `RX_EXP` counts them modulo 256. -/
structure Assembled (s : State) (ps : List (List Byte)) : Prop where
  bytes : received s = .ok ps.flatten
  count : s.rxExp.toNat = ps.length % 256

/-- `RX_EXP`, `RX_LEN` and `RXBUF` are as before. -/
structure KeepsReceived (s t : State) : Prop where
  rxExp : t.rxExp = s.rxExp
  rxLen : t.rxLen = s.rxLen
  rxbuf : t.rxbuf = s.rxbuf

theorem KeepsReceived.refl (s : State) : KeepsReceived s s := ⟨rfl, rfl, rfl⟩

namespace Assembled

variable {s t : State} {ps : List (List Byte)}

theorem nil (hexp : s.rxExp = 0) (hlen : s.rxLen = 0) : Assembled s [] where
  bytes := by rw [received, hlen]; rfl
  count := by rw [hexp]; rfl

theorem rxLen (h : Assembled s ps) : s.rxLen.toNat = ps.flatten.length := (Memory.readRange_length h.bytes).symm

theorem expects_iff (h : Assembled s ps) (b : Byte) : b = s.rxExp ↔ b.toNat = ps.length % 256 := by
  rw [← h.count, BitVec.toNat_inj]

theorem keep (h : Assembled s ps) (hk : KeepsReceived s t) : Assembled t ps where
  bytes := by rw [received, hk.rxbuf, hk.rxLen]; exact h.bytes
  count := by rw [hk.rxExp, h.count]

/-- The new payload stands directly above the bytes received before (R97). -/
theorem accept (h : Assembled s ps) {p : List Byte} (hp : s.rxLen.toNat + p.length ≤ Config.maxLen) :
    Assembled (acceptPayload p s) (ps ++ [p]) where
  bytes := by
    obtain ⟨hlen, hread⟩ := Memory.readRange_eq_ok_iff.mp h.bytes
    rw [received, acceptPayload_rxLen_toNat hp, acceptPayload_rxbuf, List.flatten_append, List.flatten_singleton,
      Memory.readRange_eq_ok_iff]
    refine ⟨by rw [List.length_append, hlen], fun k hk => ?_⟩
    rw [Memory.read_writeRange, List.getElem?_append, hlen, Nat.zero_add]
    rcases Nat.lt_or_ge k s.rxLen.toNat with hold | hnew
    · rw [if_neg (by omega), if_pos hold, ← hread k hold, Nat.zero_add]
    · rw [if_pos ⟨hnew, hk⟩, if_neg (by omega)]
  count := by
    rw [acceptPayload_rxExp, BitVec.toNat_add, h.count, List.length_append]
    simp

/-- Holding `ps`, the receiver takes from one frame what the independent count takes from it (R97, R98). -/
protected theorem receiverRecv {len : BitVec 7} {raw : List Byte} (h : Assembled s ps) (hraw : isFrameOperand len raw)
    (hr : receiverRecv len raw s = .next t) (ht : t.ctl = .rxWait) :
    Assembled t (ps ++ acceptedPayloads ps.length [raw]) := by
  have ⟨_, _, hl⟩ := hraw
  rcases receiverRecv_frame_cases hraw hr ht with ⟨hseq, hfit, rfl⟩ | ⟨hseq, rfl⟩
  · rw [acceptedPayloads_expected ((h.expects_iff _).mp hseq)]
    exact h.accept (by rwa [List.length_drop, hl])
  · rw [acceptedPayloads_unexpected (mt (h.expects_iff _).mpr hseq), List.append_nil]
    exact h.keep ⟨rfl, rfl, rfl⟩

/-- A frame whose payload, if it is the expected one, fits is taken, and the wait goes on. -/
theorem receiverRecv_waits {len : BitVec 7} {raw : List Byte} (h : Assembled s ps) (hw : s.ctl = .rxWait)
    (hraw : isFrameOperand len raw) (hfit : (ps ++ acceptedPayloads ps.length [raw]).flatten.length ≤ Config.maxLen) :
    ∃ t, receiverRecv len raw s = .next t ∧ t.ctl = .rxWait := by
  have ⟨_, _, hl⟩ := hraw
  by_cases hseq : raw.getD 2 0 = s.rxExp
  · rw [acceptedPayloads_expected ((h.expects_iff _).mp hseq), List.flatten_append, List.flatten_singleton,
      List.length_append, ← h.rxLen, List.length_drop, hl] at hfit
    exact ⟨_, receiverRecv_expected hraw hseq hfit, hw⟩
  · exact ⟨_, receiverRecv_unexpected hraw hseq, hw⟩

end Assembled

/-! ### A request that delivers no frame -/

section
variable {s t : State} {e : Event}

theorem isFrameOperand_of_delivered {raw : List Byte} (h : deliveredFrame (.event e) = some raw) :
    e.code = 4 ∧ raw = frameOperand e ∧ isFrameOperand e.len raw := by
  simp only [deliveredFrame, Config.headerSize, Config.maxFrame, Option.ite_none_right_eq_some, Option.some.injEq] at h
  obtain ⟨⟨hc, h7, h71⟩, rfl⟩ := h
  exact ⟨hc, rfl, h7, h71, frameOperandOk_length (frameOperand_wf e) h71⟩

theorem noFrame_of_not_delivered (hc : e.code = 4) (h : deliveredFrame (.event e) = none) :
    isMalformedLength e.len ∨ e.len = 0 := by
  simp only [deliveredFrame, hc, Config.headerSize, Config.maxFrame, true_and, ite_eq_right_iff, reduceCtorEq,
    imp_false] at h
  have hzero : e.len.toNat = 0 ↔ e.len = 0 := BitVec.toNat_inj (y := 0)
  simp only [isMalformedLength, ← hzero]
  omega

/-- In `RX_WAIT` only a delivered frame or a START writes a receiver register or `RXBUF`. -/
theorem acceptEvent_keepsReceived (hw : s.ctl = .rxWait) (hstart : e.code ≠ 2)
    (hd : deliveredFrame (.event e) = none) (h : acceptEvent e s = .next t) : KeepsReceived s t := by
  have hopen : connectionOpen s.ctl = true := by rw [hw]; rfl
  have hreserved (h7 : 7 ≤ e.code.toNat) : KeepsReceived s t := by
    cases ((acceptEvent_reserved s h7).trans (reservedEvent_fault (by simp [hw]))).symm.trans h
    exact ⟨rfl, rfl, rfl⟩
  rcases code_cases e.code with hc | hc | hc | hc | hc | hc | hc | hc | hc
  · cases (acceptEvent_nop s hc).symm.trans h
    exact .refl s
  · cases ((acceptEvent_cfgwr s hc).trans (execCfgwr_open hopen _ _)).symm.trans h
    exact ⟨rfl, rfl, rfl⟩
  · exact absurd hc hstart
  · cases ((acceptEvent_tick s hc).trans ((tickEvent_rxWait hw).trans (receiverTick_eq s))).symm.trans h
    exact ⟨rfl, rfl, rfl⟩
  · rw [acceptEvent_recv s hc, recvEvent_rxWait hw] at h
    rcases receiverRecv_noFrame_cases (noFrame_of_not_delivered hc hd) h with rfl | rfl <;> exact ⟨rfl, rfl, rfl⟩
  · cases (acceptEvent_pack s hc).symm.trans h
    exact ⟨rfl, rfl, rfl⟩
  · cases (acceptEvent_unpack s hc).symm.trans h
    exact ⟨rfl, rfl, rfl⟩
  · exact hreserved (by rw [hc]; decide)
  · exact hreserved (Nat.le_of_succ_le hc)

theorem applyInput_keepsReceived {a : Input} (hw : s.ctl = .rxWait) (ha : opensNothing a = true)
    (hd : deliveredFrame a = none) (h : applyInput a s = .next t) : KeepsReceived s t := by
  cases a with
  | event e => exact acceptEvent_keepsReceived hw (by simpa [opensNothing] using ha) hd h
  | rst => cases ha
  | _ =>
    rcases applyInput_cases h with ⟨_, he, -⟩ | ⟨_, _, -, -, -, rfl⟩ | ⟨_, -, rfl⟩ | ⟨_, -, -, rfl⟩ |
      ⟨_, -, -, rfl⟩ | ⟨he, -⟩
    · cases he
    · exact ⟨rfl, rfl, rfl⟩
    · exact ⟨rfl, rfl, rfl⟩
    · exact ⟨rfl, rfl, rfl⟩
    · exact ⟨rfl, rfl, rfl⟩
    · cases he

/-! ### `RX_WAIT` is entered by START alone -/

theorem Effect.rxWait_or_ready (h : Effect s t) (ht : t.ctl = .rxWait) : s.ctl = .rxWait ∨ s.ctl.ready = true := by
  cases h with
  | config _ _ _ hr | openReceiver hr => exact .inr hr
  | openEmpty | openSender | fault | complete | receiverClose => cases ht
  | _ => exact .inl ht

/-- With no connection open, no event but START leaves for a wait state. -/
theorem acceptEvent_ready_ctl (hr : s.ctl.ready = true) (hstart : e.code ≠ 2) (h : acceptEvent e s = .next t) :
    t.ctl = s.ctl ∨ t.ctl = .error := by
  obtain ⟨htx, hrx, herr⟩ := ready_not_waiting hr
  have hclosed : connectionOpen s.ctl = false := Bool.eq_false_iff.mpr fun ho => (open_cases ho).elim htx hrx
  have hreserved (h7 : 7 ≤ e.code.toNat) : t.ctl = s.ctl ∨ t.ctl = .error := by
    cases ((acceptEvent_reserved s h7).trans (reservedEvent_fault herr)).symm.trans h
    exact .inr rfl
  rcases code_cases e.code with hc | hc | hc | hc | hc | hc | hc | hc | hc
  · cases (acceptEvent_nop s hc).symm.trans h
    exact .inl rfl
  · cases ((acceptEvent_cfgwr s hc).trans (execCfgwr_ready hr _ _)).symm.trans h
    split
    · rename_i hw
      rcases writeCfg_cases hw with ⟨-, rfl⟩ | ⟨-, rfl⟩ | ⟨-, rfl⟩ | ⟨-, rfl⟩ | ⟨-, rfl⟩ | ⟨-, rfl⟩ | ⟨-, rfl⟩ <;>
        exact .inl rfl
    · exact .inr rfl
  · exact absurd hc hstart
  · cases ((acceptEvent_tick s hc).trans (tickEvent_closed hclosed)).symm.trans h
    exact .inl rfl
  · cases ((acceptEvent_recv s hc).trans (recvEvent_closed hclosed _ _)).symm.trans h
    exact .inl rfl
  · cases (acceptEvent_pack s hc).symm.trans h
    exact .inl rfl
  · cases (acceptEvent_unpack s hc).symm.trans h
    exact .inl rfl
  · exact hreserved (by rw [hc]; decide)
  · exact hreserved (Nat.le_of_succ_le hc)

theorem rxWait_of_acceptEvent (hstart : e.code ≠ 2) (h : acceptEvent e s = .next t) (ht : t.ctl = .rxWait) :
    s.ctl = .rxWait := by
  rcases (exec_effect h).rxWait_or_ready ht with hw | hr
  · exact hw
  · rcases acceptEvent_ready_ctl hr hstart h with hctl | hctl
    · exact hctl.symm.trans ht
    · cases hctl.symm.trans ht

/-- No request but a START brings a block into `RX_WAIT`. -/
theorem rxWait_of_applyInput {a : Input} (ha : opensNothing a = true) (h : applyInput a s = .next t)
    (ht : t.ctl = .rxWait) : s.ctl = .rxWait := by
  rcases applyInput_cases h with ⟨e, rfl, -⟩ | ⟨_, _, -, -, -, rfl⟩ | ⟨_, -, rfl⟩ | ⟨_, -, -, rfl⟩ |
    ⟨_, -, -, rfl⟩ | ⟨-, rfl⟩
  · exact rxWait_of_acceptEvent (by simpa [opensNothing] using ha) h ht
  · exact ht
  · exact ht
  · exact ht
  · exact ht
  · cases ht

theorem rxWait_of_runInputs {as : List Input} {os : List Output} (has : ∀ a ∈ as, opensNothing a = true)
    (h : runInputs as s = .next (t, os)) (ht : t.ctl = .rxWait) : s.ctl = .rxWait := by
  induction as generalizing s os with
  | nil =>
    cases h
    exact ht
  | cons a as ih =>
    obtain ⟨hfirst, hrest⟩ := List.forall_mem_cons.mp has
    obtain ⟨u, _, hu, hr, -⟩ := runInputs_cons_next h
    exact rxWait_of_applyInput (s := settle s) hfirst hu (ih hrest hr)

end

/-! ### Runs (R103) -/

theorem deliveredFrame_recvBytes {f : List Byte} (h7 : 7 ≤ f.length) (h71 : f.length ≤ 71) :
    deliveredFrame (.event (recvBytes f)) = some f := by
  have hlen : (BitVec.ofNat 7 f.length).toNat = f.length := ofNat_frameLength h71
  have hok : frameOperandOk (BitVec.ofNat 7 f.length) f = true := by
    simp [frameOperandOk, hlen, Config.maxFrame, h71]
  have hraw : frameOperand (recvBytes f) = f := frameOperand_ok hok 4
  rw [deliveredFrame, hraw]
  exact if_pos ⟨rfl, hlen.symm ▸ h7, hlen.symm ▸ h71⟩

/-- What a delivered frame runs in `RX_WAIT` (R57). -/
theorem applyInput_delivered {s : State} {e : Event} {raw : List Byte} (hw : s.ctl = .rxWait)
    (hd : deliveredFrame (.event e) = some raw) :
    isFrameOperand e.len raw ∧ applyInput (.event e) s = receiverRecv e.len raw s := by
  obtain ⟨hc, rfl, hraw⟩ := isFrameOperand_of_delivered hd
  exact ⟨hraw, (acceptEvent_recv s hc).trans (recvEvent_rxWait hw _ _)⟩

namespace Assembled

variable {s t : State} {ps : List (List Byte)}

protected theorem settle (h : Assembled s ps) : Assembled (settle s) ps := h.keep ⟨rfl, rfl, rfl⟩

protected theorem applyInput {a : Input} (h : Assembled s ps) (hw : s.ctl = .rxWait) (ha : opensNothing a = true)
    (hs : applyInput a s = .next t) (ht : t.ctl = .rxWait) :
    Assembled t (ps ++ acceptedPayloads ps.length (deliveredFrame a).toList) := by
  cases hd : deliveredFrame a with
  | none =>
    rw [Option.toList_none, acceptedPayloads, List.append_nil]
    exact h.keep (applyInput_keepsReceived hw ha hd hs)
  | some raw =>
    cases a with
    | event e =>
      obtain ⟨hraw, hrun⟩ := applyInput_delivered hw hd
      exact h.receiverRecv hraw (hrun.symm.trans hs) ht
    | _ => cases hd

/-- A run from `RX_WAIT` to `RX_WAIT` that opens nothing never leaves it, and adds what its frames deliver in order. -/
protected theorem runInputs {as : List Input} {os : List Output} (h : Assembled s ps) (hw : s.ctl = .rxWait)
    (has : ∀ a ∈ as, opensNothing a = true) (hrun : runInputs as s = .next (t, os)) (ht : t.ctl = .rxWait) :
    Assembled t (ps ++ acceptedPayloads ps.length (as.filterMap deliveredFrame)) := by
  induction as generalizing s ps os with
  | nil =>
    cases hrun
    rwa [List.filterMap_nil, acceptedPayloads, List.append_nil]
  | cons a as ih =>
    obtain ⟨hfirst, hrest⟩ := List.forall_mem_cons.mp has
    obtain ⟨u, _, hu, hr, -⟩ := runInputs_cons_next hrun
    have huw : u.ctl = .rxWait := rxWait_of_runInputs hrest hr ht
    have hua := ih (h.settle.applyInput hw hfirst hu huw) huw hrest hr
    have hsplit : (a :: as).filterMap deliveredFrame =
        (deliveredFrame a).toList ++ as.filterMap deliveredFrame := by
      rw [List.filterMap_cons]
      cases deliveredFrame a <;> rfl
    rwa [hsplit, acceptedPayloads_append, ← List.append_assoc, ← List.length_append]

/-- Frames whose accepted payloads fit are all taken, one ACK each. -/
theorem runFrames {frames : List (List Byte)} (h : Assembled s ps) (hw : s.ctl = .rxWait)
    (hlen : ∀ f ∈ frames, 7 ≤ f.length ∧ f.length ≤ 71)
    (hfit : (ps ++ acceptedPayloads ps.length frames).flatten.length ≤ Config.maxLen) :
    ∃ t os, runInputs (frames.map fun f => .event (recvBytes f)) s = .next (t, os) ∧
      t.ctl = .rxWait ∧ os.length = frames.length := by
  induction frames generalizing s ps with
  | nil => exact ⟨s, [], rfl, hw, rfl⟩
  | cons f frames ih =>
    obtain ⟨⟨h7, h71⟩, hrest⟩ := List.forall_mem_cons.mp hlen
    obtain ⟨hraw, hrun⟩ := applyInput_delivered (s := settle s) hw (deliveredFrame_recvBytes h7 h71)
    rw [← List.singleton_append, acceptedPayloads_append, ← List.append_assoc, ← List.length_append] at hfit
    have hfirst : (ps ++ acceptedPayloads ps.length [f]).flatten.length ≤ Config.maxLen := by
      rw [List.flatten_append, List.length_append] at hfit
      exact Nat.le_of_add_right_le hfit
    obtain ⟨u, hu, huw⟩ := h.settle.receiverRecv_waits hw hraw hfirst
    obtain ⟨t, os, ht, htw, hos⟩ := ih (h.settle.receiverRecv hraw hu huw) huw hrest hfit
    refine ⟨t, _, runInputs_cons (hrun.trans hu) ht, htw, ?_⟩
    rw [receiverRecv_acks hraw hu huw, List.length_append, hos, List.length_cons, Nat.add_comm]
    rfl

end Assembled

/-- Settles O34: a fresh receiver has assembled nothing, and runs add what their frames deliver. -/
theorem receiverAssemblesInOrder : Obligations.ReceiverAssemblesInOrder := by
  unfold Obligations.ReceiverAssemblesInOrder
  refine ⟨fun s t as os hw hexp hlen has hrun ht => ?_, fun s frames hw hexp hlen hframes hfit => ?_⟩
  · have h := (Assembled.nil hexp hlen).runInputs hw has hrun ht
    exact ⟨h.bytes, h.rxLen, h.count⟩
  · exact (Assembled.nil hexp hlen).runFrames hw hframes hfit

end Sys2Proof.Machine
end

section
/-! SUPPORT. Proofs on the control operations (43_control.md): what a configuration write changes and keeps, which START
R107 rejects, and that no operation changes the configuration while a connection is open. -/

namespace Sys2Proof.Machine

/-! ### NOP, the reserved codes, and the events that need a connection -/

/-- Settles O12: the meaning of NOP reads no state. -/
theorem nopChangesNothing : Obligations.NopChangesNothing := by
  unfold Obligations.NopChangesNothing
  exact fun _ => rfl

theorem exec_reserved {i : Instr} (hi : i = .rsv7 ∨ ∃ code, i = .rsv8F code) (s : State) :
    exec i s = reservedEvent s := by
  rcases hi with rfl | ⟨code, rfl⟩ <;> rfl

/-- Settles O18: fault entry closes the connection exactly in the two wait states. -/
theorem reservedCodesFault : Obligations.ReservedCodesFault := by
  unfold Obligations.ReservedCodesFault
  intro s i hi
  rw [exec_reserved hi]
  refine ⟨fun hs => ?_, reservedEvent_error⟩
  rw [reservedEvent_fault hs, ← closes_iff]
  rfl

/-- Settles O19: `IDLE`, `TX_DONE` and `RX_DONE` have no connection open. -/
theorem noConnectionIgnoresTickAndRecv : Obligations.NoConnectionIgnoresTickAndRecv := by
  unfold Obligations.NoConnectionIgnoresTickAndRecv
  intro s i hs hi
  have hclosed : connectionOpen s.ctl = false := by rcases hs with h | h | h <;> rw [h] <;> rfl
  rcases hi with rfl | rfl | ⟨len, raw, rfl⟩ | ⟨len, raw, rfl⟩
  case inl | inr.inl => exact tickEvent_closed hclosed
  all_goals exact recvEvent_closed hclosed len raw

/-! ### START with an illegal configuration (R107) -/

theorem startOk_sender {s : State} (hrole : s.cfgRole = 0) : startOk s = senderConfigOk s := if_pos hrole

theorem startOk_receiver {s : State} (hrole : s.cfgRole = 1) : startOk s = receiverConfigOk s := by
  rw [startOk, hrole, if_neg (by decide), if_pos rfl]

theorem startOk_noRole {s : State} (h0 : s.cfgRole ≠ 0) (h1 : s.cfgRole ≠ 1) : startOk s = false := by
  rw [startOk, if_neg h0, if_neg h1]

/-- Settles O16: each disjunct is a failing check of its role, and no connection is open that the fault could close. -/
theorem startRejectsABadConfiguration : Obligations.StartRejectsABadConfiguration := by
  unfold Obligations.StartRejectsABadConfiguration
  intro s hr hbad
  have hfails : startOk s = false := by
    rcases hbad with ⟨hrole, hbad⟩ | ⟨hrole, hbad⟩ | hrole | hrole
    · rw [startOk_sender hrole, Bool.eq_false_iff]
      exact mt (senderConfigOk_iff s).mp hbad
    · rw [startOk_receiver hrole, Bool.eq_false_iff]
      exact fun h => (receiverConfigOk_iff s).mp h hbad
    all_goals exact startOk_noRole (by rw [hrole]; decide) (by rw [hrole]; decide)
  rw [← takeFault_ready .invalidMode hr]
  exact startEvent_invalidMode hr hfails

/-! ### CFGWR with no connection open (R105, R106) -/

section
variable {s t : State} {k : BitVec 8} {v : Word}

/-- Indices 0 to 6 are the configuration registers (R7). -/
theorem exists_writeCfg (hk : k.toNat ≤ 6) (s : State) (v : Word) : ∃ t, writeCfg s k v = some t := by
  simp only [writeCfg]
  interval_cases k.toNat <;> exact ⟨_, rfl⟩

theorem writeCfg_eq_none (hk : 6 < k.toNat) (s : State) (v : Word) : writeCfg s k v = none := by
  simp only [writeCfg]
  split
  case h_8 => rfl
  all_goals omega

/-- The read port zero-extends a field, which holds the value modulo 2 to the field's width (R6, R22). -/
theorem toNat_setWidth_field {w : Nat} (hw : w ≤ 32) (v : Word) :
    ((v.setWidth w).setWidth 32).toNat = v.toNat % 2 ^ w := by
  rw [BitVec.toNat_setWidth_of_le hw, BitVec.toNat_setWidth]

theorem readReg_writeCfg_self (h : writeCfg s k v = some t) :
    (readReg t k).toNat = v.toNat % 2 ^ (if k = 0 then 2 else if k = 6 then 32 else 8) := by
  rcases writeCfg_cases h with ⟨rfl, rfl⟩ | ⟨rfl, rfl⟩ | ⟨rfl, rfl⟩ | ⟨rfl, rfl⟩ | ⟨rfl, rfl⟩ | ⟨rfl, rfl⟩ | ⟨rfl, rfl⟩
  case inr.inr.inr.inr.inr.inr => exact (Nat.mod_eq_of_lt v.isLt).symm
  all_goals exact toNat_setWidth_field (by decide) v

/-- Every index but the one written reads as before, those of STATUS and of the session registers included. -/
theorem readReg_writeCfg_of_ne (h : writeCfg s k v = some t) {j : BitVec 8} (hj : j ≠ k) :
    readReg t j = readReg s j := by
  rcases writeCfg_cases h with ⟨rfl, rfl⟩ | ⟨rfl, rfl⟩ | ⟨rfl, rfl⟩ | ⟨rfl, rfl⟩ | ⟨rfl, rfl⟩ | ⟨rfl, rfl⟩ | ⟨rfl, rfl⟩ <;>
    (simp only [ne_eq, ← BitVec.toNat_inj] at hj
     simp only [readReg]
     split <;> simp_all [statusWord])

/-- The output queue and the model's own fields are as before. -/
theorem writeCfg_keepsPorts (h : writeCfg s k v = some t) :
    t.outq = s.outq ∧ t.inputs = s.inputs ∧ t.reply = s.reply ∧ t.draws = s.draws := by
  rcases writeCfg_cases h with ⟨-, rfl⟩ | ⟨-, rfl⟩ | ⟨-, rfl⟩ | ⟨-, rfl⟩ | ⟨-, rfl⟩ | ⟨-, rfl⟩ | ⟨-, rfl⟩ <;>
    exact ⟨rfl, rfl, rfl, rfl⟩

theorem exec_cfgwr_written (hr : s.ctl.ready = true) (h : writeCfg s k v = some t) :
    exec (.cfgwr k v) s = .next t := by
  rw [exec, execCfgwr_ready hr, h]

theorem exec_cfgwr_open (ho : connectionOpen s.ctl = true) (k : BitVec 8) (v : Word) :
    exec (.cfgwr k v) s = .next { s with ctl := .error, cause := .illegalOp, outq := s.outq ++ [.close] } := by
  rw [exec, execCfgwr_open ho, takeFault_open .illegalOp ho]

end

/-- Settles O13: by STATE, and with no connection open by whether the index has a configuration register. -/
theorem cfgwrWritesOneRegister : Obligations.CfgwrWritesOneRegister := by
  unfold Obligations.CfgwrWritesOneRegister
  refine fun s k v => ⟨fun hr hk => ?_, fun hr hk => ?_, fun ho => exec_cfgwr_open ho k v,
    fun he => execCfgwr_error he k v⟩
  · obtain ⟨t, ht⟩ := exists_writeCfg hk s v
    obtain ⟨htx, hrx⟩ := writeCfg_keepsBuffers ht
    exact ⟨t, exec_cfgwr_written hr ht, readReg_writeCfg_self ht, fun j hj => readReg_writeCfg_of_ne ht hj, htx, hrx,
      writeCfg_keepsPorts ht⟩
  · rw [exec, execCfgwr_ready hr, writeCfg_eq_none hk, takeFault_ready .illegalOp hr]

/-! ### The configuration while a connection is open (R108) -/

theorem startEvent_open_closes {s : State} (ho : connectionOpen s.ctl = true) :
    startEvent s = .next { s with ctl := .error, cause := .illegalOp, outq := s.outq ++ [.close] } := by
  rw [startEvent_open ho, takeFault_open .illegalOp ho]

theorem ready_not_open {c : ControlState} (h : c.ready = true) : connectionOpen c = false := by
  rcases ready_cases h with rfl | rfl | rfl <;> rfl

/-- Only CFGWR writes a configuration register, and only with no connection open. -/
theorem Effect.keeps_configuration {s t : State} (e : Effect s t) (ho : connectionOpen s.ctl = true) :
    t.cfgRole = s.cfgRole ∧ t.cfgN = s.cfgN ∧ t.cfgT = s.cfgT ∧ t.cfgTr = s.cfgTr ∧ t.cfgSport = s.cfgSport ∧
    t.cfgDport = s.cfgDport ∧ t.txLen = s.txLen := by
  cases e with
  | config _ _ _ hr => simp [ready_not_open hr] at ho
  | _ => exact ⟨rfl, rfl, rfl, rfl, rfl, rfl, rfl⟩

/-- Settles O17: the three names of START have one meaning, and every operation is one of the effects. -/
theorem configurationIsConstantWhileOpen : Obligations.ConfigurationIsConstantWhileOpen := by
  unfold Obligations.ConfigurationIsConstantWhileOpen
  refine ⟨fun s i ho hi => ?_, fun s t i ho h => (exec_effect h).keeps_configuration ho⟩
  rcases hi with rfl | rfl | rfl | ⟨k, v, rfl⟩
  case inr.inr.inr => exact exec_cfgwr_open ho k v
  all_goals exact startEvent_open_closes ho

end Sys2Proof.Machine
end

section
/-! SUPPORT. Proofs on faults and `ERROR` (60_exceptions.md): which event raises which cause, that fault entry is the
whole effect of a faulting event, that only a reset leaves `ERROR`, and the level outputs. -/

namespace Sys2Proof.Machine

/-! ### In `ERROR` (R111, R117) -/

section
variable {s t : State}

theorem exists_packResult (len : BitVec 7) (h : Header) (payload : List Byte) :
    ∃ code bytes, packResult len h payload = .result code bytes := by
  rw [packResult]
  split <;> exact ⟨_, _, rfl⟩

theorem exists_unpackResult (len : BitVec 7) (raw : List Byte) :
    ∃ code bytes, unpackResult len raw = .result code bytes := by
  rw [unpackResult]
  split <;> exact ⟨_, _, rfl⟩

theorem error_not_open (he : s.ctl = .error) : connectionOpen s.ctl = false := by rw [he]; rfl

theorem exec_error (he : s.ctl = .error) (i : Instr) :
    (exec i s = .next s ∧ (∀ len h p, i ≠ .pack len h p) ∧ ∀ len raw, i ≠ .unpack len raw) ∨
    ((∃ len h p, i = .pack len h p) ∨ ∃ len raw, i = .unpack len raw) ∧
      ∃ code bytes, exec i s = .next { s with outq := s.outq ++ [.result code bytes] } := by
  cases i with
  | nop => exact .inl ⟨rfl, nofun, nofun⟩
  | cfgwr k v => exact .inl ⟨execCfgwr_error he k v, nofun, nofun⟩
  | start | txStart | rxStart => exact .inl ⟨startEvent_error he, nofun, nofun⟩
  | txTick | rxTick => exact .inl ⟨tickEvent_closed (error_not_open he), nofun, nofun⟩
  | txRecv len raw | rxRecv len raw => exact .inl ⟨recvEvent_closed (error_not_open he) len raw, nofun, nofun⟩
  | rsv7 | rsv8F => exact .inl ⟨reservedEvent_error he, nofun, nofun⟩
  | pack len h p =>
    obtain ⟨code, bytes, hr⟩ := exists_packResult len h p
    exact .inr ⟨.inl ⟨len, h, p, rfl⟩, code, bytes, by rw [exec_pack, hr]⟩
  | unpack len raw =>
    obtain ⟨code, bytes, hr⟩ := exists_unpackResult len raw
    exact .inr ⟨.inr ⟨len, raw, rfl⟩, code, bytes, by rw [exec_unpack, hr]⟩

theorem exec_keepsError {i : Instr} (he : s.ctl = .error) (h : exec i s = .next t) :
    t.ctl = .error ∧ t.cause = s.cause := by
  rcases exec_error he i with ⟨hsame, -, -⟩ | ⟨-, code, bytes, hres⟩
  · cases hsame.symm.trans h
    exact ⟨he, rfl⟩
  · cases hres.symm.trans h
    exact ⟨he, rfl⟩

theorem applyInput_keepsError {a : Input} (he : s.ctl = .error) (ha : a ≠ .rst) (h : applyInput a s = .next t) :
    t.ctl = .error ∧ t.cause = s.cause := by
  rcases applyInput_cases h with ⟨e, rfl, -⟩ | ⟨_, _, -, -, -, rfl⟩ | ⟨_, -, rfl⟩ | ⟨_, -, -, rfl⟩ |
    ⟨_, -, -, rfl⟩ | ⟨hrst, -⟩
  · exact exec_keepsError he h
  · exact ⟨he, rfl⟩
  · exact ⟨he, rfl⟩
  · exact ⟨he, rfl⟩
  · exact ⟨he, rfl⟩
  · exact absurd hrst ha

end

/-- Settles O20: no meaning does anything in `ERROR` but PACK and UNPACK, and a reset gives `resetBlock`. -/
theorem onlyResetLeavesError : Obligations.OnlyResetLeavesError := by
  unfold Obligations.OnlyResetLeavesError
  exact ⟨fun s i he => exec_error he i, fun s t a he ha h => applyInput_keepsError he ha h,
    fun s _ => ⟨resetBlock s, rfl, rfl, rfl⟩⟩

/-! ### Fault entry (R114, R115) -/

theorem writeCfg_keepsCtl {s t : State} {k : BitVec 8} {v : Word} (h : writeCfg s k v = some t) : t.ctl = s.ctl := by
  rcases writeCfg_cases h with ⟨-, rfl⟩ | ⟨-, rfl⟩ | ⟨-, rfl⟩ | ⟨-, rfl⟩ | ⟨-, rfl⟩ | ⟨-, rfl⟩ | ⟨-, rfl⟩ <;> rfl

/-- Of the effects only fault entry enters `ERROR`. -/
theorem Effect.eq_takeFault {s t : State} (e : Effect s t) (hs : s.ctl ≠ .error) (ht : t.ctl = .error) :
    ∃ c, c ≠ .none ∧ t = takeFault c s := by
  cases e with
  | fault c hc => exact ⟨c, hc, rfl⟩
  | config _ _ _ _ hw => exact absurd ((writeCfg_keepsCtl hw).symm.trans ht) hs
  | openEmpty | openSender | openReceiver | complete | receiverClose => cases ht
  | _ => exact absurd ht hs

/-- Settles O35: the effect is `takeFault`, which closes exactly in the two wait states. -/
theorem faultEntryIsPrecise : Obligations.FaultEntryIsPrecise := by
  unfold Obligations.FaultEntryIsPrecise
  intro s t i hs h ht
  obtain ⟨c, hc, rfl⟩ := (exec_effect h).eq_takeFault hs ht
  refine ⟨c, hc, ?_⟩
  rw [← closes_iff]
  rfl

/-! ### The causes (R112) -/

/-- The rows of R112: operation `i` raises cause `c` in state `s`. -/
inductive Raises (s : State) : Instr → Cause → Prop where
  /-- A reserved code (R109). -/
  | reserved {i : Instr} (hi : 7 ≤ i.code.toNat) : Raises s i .illegalOp
  /-- START or CFGWR in a wait state (R108). -/
  | forbidden {i : Instr} (hi : i.code = 1 ∨ i.code = 2) (ho : connectionOpen s.ctl = true) : Raises s i .illegalOp
  /-- CFGWR to an index that is no configuration register (R106). -/
  | badIndex {k : BitVec 8} (v : Word) (hr : s.ctl.ready = true) (hk : 6 < k.toNat) :
      Raises s (.cfgwr k v) .illegalOp
  /-- START with a failing check of R107. -/
  | badConfig {i : Instr} (hi : i.code = 2) (hr : s.ctl.ready = true) (hok : startOk s = false) :
      Raises s i .invalidMode
  /-- An empty RECV in `TX_WAIT` (R87). -/
  | peerClose {i : Instr} {raw : List Byte} (hi : i = .txRecv 0 raw ∨ i = .rxRecv 0 raw) (hw : s.ctl = .txWait) :
      Raises s i .peerClosed
  /-- The expected frame with a payload that does not fit (R102). -/
  | overflow {i : Instr} {len : BitVec 7} {raw : List Byte} (hi : i = .txRecv len raw ∨ i = .rxRecv len raw)
      (hw : s.ctl = .rxWait) (hraw : isFrameOperand len raw) (hseq : raw.getD 2 0 = s.rxExp)
      (hover : Config.maxLen < s.rxLen.toNat + (len.toNat - 7)) : Raises s i .rxOverflow

theorem ready_or_open {c : ControlState} (h : c ≠ .error) : c.ready = true ∨ connectionOpen c = true := by
  cases c with
  | error => exact absurd rfl h
  | idle | txDone | rxDone => exact .inl rfl
  | txWait | rxWait => exact .inr rfl

section
variable {s t : State}

theorem frameOperandOk_cases {len : BitVec 7} {raw : List Byte} (h : frameOperandOk len raw = true) :
    len = 0 ∨ isMalformedLength len ∨ isFrameOperand len raw := by
  have hzero : len.toNat = 0 ↔ len = 0 := BitVec.toNat_inj (y := 0)
  have hlen := frameOperandOk_length h
  simp only [isMalformedLength, isFrameOperand, ← hzero]
  omega

/-! ### Where an operation does not fault -/

theorem senderTick_keepsCtl (h : senderTick s = .next t) : t.ctl = s.ctl := by
  simp only [senderTick] at h
  split at h
  · split at h <;> cases h
    rfl
  · cases h
    rfl

/-- A TICK faults in no state. -/
theorem tickEvent_keepsCtl (h : tickEvent s = .next t) : t.ctl = s.ctl := by
  cases ho : connectionOpen s.ctl with
  | false =>
    cases (tickEvent_closed ho).symm.trans h
    rfl
  | true =>
    rcases open_cases ho with hw | hw
    · exact senderTick_keepsCtl ((tickEvent_txWait hw).symm.trans h)
    · cases ((tickEvent_rxWait hw).trans (receiverTick_eq s)).symm.trans h
      rfl

theorem openSender_noError (h : openSender s = .next t) : t.ctl ≠ .error := by
  simp only [openSender] at h
  split at h
  · cases h
  · split at h <;> cases h <;> nofun

/-- A START whose checks of R107 pass opens a connection, or completes an empty one. -/
theorem startEvent_noError (hr : s.ctl.ready = true) (hok : startOk s = true) (h : startEvent s = .next t) :
    t.ctl ≠ .error := by
  by_cases h0 : s.cfgRole = 0
  · have hlegal := (senderConfigOk_iff s).mp ((startOk_sender h0).symm.trans hok)
    exact openSender_noError ((startEvent_sender hr h0 hlegal).symm.trans h)
  · by_cases h1 : s.cfgRole = 1
    · cases (startEvent_receiver hr h1 ((startOk_receiver h1).symm.trans hok)).symm.trans h
      nofun
    · cases (startOk_noRole h0 h1).symm.trans hok

theorem advanceWindow_noError {d : Nat} (hs : s.ctl ≠ .error) (h : advanceWindow s d = .next t) :
    t.ctl ≠ .error := by
  simp only [advanceWindow] at h
  split at h
  · cases h
    nofun
  · split at h <;> cases h
    exact hs

/-! ### What an operation that enters `ERROR` raises -/

theorem execCfgwr_raises {k : BitVec 8} {v : Word} (hs : s.ctl ≠ .error) (h : execCfgwr k v s = .next t)
    (ht : t.ctl = .error) : Raises s (.cfgwr k v) t.cause := by
  rcases ready_or_open hs with hr | ho
  · rcases Nat.lt_or_ge 6 k.toNat with hk | hk
    · rw [execCfgwr_ready hr, writeCfg_eq_none hk] at h
      cases h
      exact .badIndex v hr hk
    · obtain ⟨u, hw⟩ := exists_writeCfg hk s v
      rw [execCfgwr_ready hr, hw] at h
      cases h
      exact absurd ((writeCfg_keepsCtl hw).symm.trans ht) hs
  · cases (execCfgwr_open ho k v).symm.trans h
    exact .forbidden (.inl rfl) ho

theorem startEvent_raises {i : Instr} (hi : i.code = 2) (hs : s.ctl ≠ .error) (h : startEvent s = .next t)
    (ht : t.ctl = .error) : Raises s i t.cause := by
  rcases ready_or_open hs with hr | ho
  · cases hok : startOk s with
    | false =>
      cases (startEvent_invalidMode hr hok).symm.trans h
      exact .badConfig hi hr hok
    | true => exact absurd ht (startEvent_noError hr hok h)
  · cases (startEvent_open ho).symm.trans h
    exact .forbidden (.inr hi) ho

theorem reservedEvent_raises {i : Instr} (hi : 7 ≤ i.code.toNat) (hs : s.ctl ≠ .error)
    (h : reservedEvent s = .next t) : Raises s i t.cause := by
  cases (reservedEvent_fault hs).symm.trans h
  exact .reserved hi

section
variable {len : BitVec 7} {raw : List Byte}

/-- In `TX_WAIT` only the empty frame faults. -/
theorem senderRecv_raises (hw : s.ctl = .txWait) (hok : frameOperandOk len raw = true)
    (h : senderRecv len raw s = .next t) (ht : t.ctl = .error) : len = 0 ∧ t.cause = .peerClosed := by
  have hs : s.ctl ≠ .error := by rw [hw]; nofun
  rcases frameOperandOk_cases hok with rfl | hlen | hraw
  · cases h
    exact ⟨rfl, rfl⟩
  · rw [senderRecv, unpackFrame_malformed hlen] at h
    cases h
    exact absurd ht hs
  · rw [senderRecv_frame hraw] at h
    split at h
    · exact absurd ht (advanceWindow_noError hs h)
    · cases h
      exact absurd ht hs

/-- In `RX_WAIT` only the expected frame faults, when its payload does not fit. -/
theorem receiverRecv_raises (hw : s.ctl = .rxWait) (hok : frameOperandOk len raw = true)
    (h : receiverRecv len raw s = .next t) (ht : t.ctl = .error) :
    (isFrameOperand len raw ∧ raw.getD 2 0 = s.rxExp ∧ Config.maxLen < s.rxLen.toNat + (len.toNat - 7)) ∧
      t.cause = .rxOverflow := by
  have hs : s.ctl ≠ .error := by rw [hw]; nofun
  rcases frameOperandOk_cases hok with rfl | hlen | hraw
  · cases h
    cases ht
  · cases (receiverRecv_malformed hlen).symm.trans h
    exact absurd ht hs
  · rw [receiverRecv_frame hraw] at h
    split at h
    · split at h <;> cases h
      · exact absurd ht hs
      · exact ⟨⟨hraw, ‹_›, Nat.lt_of_not_le ‹_›⟩, rfl⟩
    · cases h
      exact absurd ht hs

theorem recvEvent_raises {i : Instr} (hi : i = .txRecv len raw ∨ i = .rxRecv len raw) (hs : s.ctl ≠ .error)
    (hok : frameOperandOk len raw = true) (h : recvEvent len raw s = .next t) (ht : t.ctl = .error) :
    Raises s i t.cause := by
  cases ho : connectionOpen s.ctl with
  | false =>
    cases (recvEvent_closed ho len raw).symm.trans h
    exact absurd ht hs
  | true =>
    rcases open_cases ho with hw | hw
    · obtain ⟨rfl, hc⟩ := senderRecv_raises hw hok ((recvEvent_txWait hw len raw).symm.trans h) ht
      exact hc ▸ .peerClose hi hw
    · obtain ⟨⟨hraw, hseq, hover⟩, hc⟩ :=
        receiverRecv_raises hw hok ((recvEvent_rxWait hw len raw).symm.trans h) ht
      exact hc ▸ .overflow hi hw hraw hseq hover

end

/-- Whatever operation enters `ERROR`, a row of R112 says which cause it raises. -/
theorem exec_raises {i : Instr} (hok : i.wellFormed = true) (hs : s.ctl ≠ .error) (h : exec i s = .next t)
    (ht : t.ctl = .error) : Raises s i t.cause := by
  cases i with
  | nop | pack | unpack =>
    cases h
    exact absurd ht hs
  | cfgwr k v => exact execCfgwr_raises hs h ht
  | start | txStart | rxStart => exact startEvent_raises rfl hs h ht
  | txTick | rxTick => exact absurd ((tickEvent_keepsCtl h).symm.trans ht) hs
  | txRecv len raw => exact recvEvent_raises (.inl rfl) hs hok h ht
  | rxRecv len raw => exact recvEvent_raises (.inr rfl) hs hok h ht
  | rsv7 => exact reservedEvent_raises (by decide) hs h
  | rsv8F c => exact reservedEvent_raises (Nat.le_of_lt (of_decide_eq_true hok)) hs h

end

/-! ### The rows of R112 exclude each other -/

section
variable {s : State} {i : Instr} {c : Cause}

theorem code_of_recv {len : BitVec 7} {raw : List Byte} (hi : i = .txRecv len raw ∨ i = .rxRecv len raw) :
    i.code = 4 := by
  rcases hi with rfl | rfl <;> rfl

theorem recv_operand_unique {len len' : BitVec 7} {raw raw' : List Byte}
    (hi : i = .txRecv len raw ∨ i = .rxRecv len raw) (hi' : i = .txRecv len' raw' ∨ i = .rxRecv len' raw') :
    len = len' ∧ raw = raw' := by
  rcases hi with rfl | rfl <;> simpa using hi'

theorem code_ne_of_reserved {n : BitVec 4} (hi : 7 ≤ i.code.toNat) (hn : n.toNat < 7) : i.code ≠ n := by
  rintro rfl
  exact Nat.not_le_of_lt hn hi

/-- Code and STATE decide the cause (R118): a wait state and a state with no connection open exclude each other, and so
do the codes. -/
theorem Raises.cause_iff (h : Raises s i c) :
    (c = .invalidMode ↔ i.code = 2 ∧ s.ctl.ready = true) ∧
    (c = .illegalOp ↔ 7 ≤ i.code.toNat ∨ (i.code = 1 ∨ i.code = 2) ∧ connectionOpen s.ctl = true ∨
      i.code = 1 ∧ s.ctl.ready = true) ∧
    (c = .peerClosed ↔ i.code = 4 ∧ s.ctl = .txWait) ∧
    (c = .rxOverflow ↔ i.code = 4 ∧ s.ctl = .rxWait) := by
  cases h with
  | reserved hi =>
    have h2 : i.code ≠ 2 := code_ne_of_reserved hi (by decide)
    have h4 : i.code ≠ 4 := code_ne_of_reserved hi (by decide)
    exact ⟨iff_of_false nofun fun h => h2 h.1, iff_of_true rfl (.inl hi), iff_of_false nofun fun h => h4 h.1,
      iff_of_false nofun fun h => h4 h.1⟩
  | forbidden hi ho =>
    have hr : s.ctl.ready ≠ true := fun hr => by simp [ready_not_open hr] at ho
    have h4 : i.code ≠ 4 := by rcases hi with hi | hi <;> rw [hi] <;> decide
    exact ⟨iff_of_false nofun fun h => hr h.2, iff_of_true rfl (.inr (.inl ⟨hi, ho⟩)),
      iff_of_false nofun fun h => h4 h.1, iff_of_false nofun fun h => h4 h.1⟩
  | badIndex v hr hk => simp [Instr.code, hr]
  | badConfig hi hr hok => simp [hi, hr, ready_not_open hr]
  | peerClose hi hw => simp [code_of_recv hi, hw]
  | overflow hi hw => simp [code_of_recv hi, hw]

theorem Raises.startOk_eq_false (h : Raises s i c) (hi : i.code = 2) (hr : s.ctl.ready = true) :
    startOk s = false := by
  cases h.cause_iff.1.mpr ⟨hi, hr⟩
  cases h with
  | badConfig _ _ hok => exact hok

theorem Raises.index_unmapped {k : BitVec 8} {v : Word} (h : Raises s (.cfgwr k v) c) (hr : s.ctl.ready = true) :
    6 < k.toNat := by
  cases h with
  | reserved hi => exact absurd hi (by simp [Instr.code])
  | forbidden _ ho => simp [ready_not_open hr] at ho
  | badIndex _ _ hk => exact hk
  | badConfig hi => simp [Instr.code] at hi
  | peerClose hi | overflow hi => simp at hi

theorem Raises.frame_empty {len : BitVec 7} {raw : List Byte} (h : Raises s i c)
    (hi : i = .txRecv len raw ∨ i = .rxRecv len raw) (hw : s.ctl = .txWait) : len = 0 := by
  obtain ⟨-, -, hpeer, -⟩ := h.cause_iff
  cases hpeer.mpr ⟨code_of_recv hi, hw⟩
  cases h with
  | peerClose hi' => exact (recv_operand_unique hi hi').1

theorem Raises.payload_overflows {len : BitVec 7} {raw : List Byte} (h : Raises s i c)
    (hi : i = .txRecv len raw ∨ i = .rxRecv len raw) (hw : s.ctl = .rxWait) :
    isFrameOperand len raw ∧ raw.getD 2 0 = s.rxExp ∧ Config.maxLen < s.rxLen.toNat + (len.toNat - 7) := by
  obtain ⟨-, -, -, hover⟩ := h.cause_iff
  cases hover.mpr ⟨code_of_recv hi, hw⟩
  cases h with
  | overflow hi' _ hraw hseq hlong =>
    obtain ⟨rfl, rfl⟩ := recv_operand_unique hi hi'
    exact ⟨hraw, hseq, hlong⟩

end

/-- Settles O36: the cause is the one of the row of R112 that holds, and the rows exclude each other. -/
theorem causesNameTheirEvents : Obligations.CausesNameTheirEvents := by
  unfold Obligations.CausesNameTheirEvents
  intro s t i hok hs h ht
  have hraises := exec_raises hok hs h ht
  obtain ⟨hmode, hillegal, hpeer, hover⟩ := hraises.cause_iff
  exact ⟨hmode, hillegal, hpeer, hover, hraises.startOk_eq_false, fun k v hi => (hi ▸ hraises).index_unmapped,
    fun len raw hi hw => hraises.frame_empty hi hw, fun len raw hi hw => hraises.payload_overflows hi hw⟩

/-! ### The level outputs (R116) -/

/-- STATE as the read port shows it: bits 2:0 of STATUS. -/
theorem readReg_status_state (s : State) : (readReg s 8).toNat % 8 = (stateCode s.ctl).toNat := by
  have h : readReg s 8 = statusWord s := rfl
  have hlt := (stateCode s.ctl).isLt
  rw [h, statusWord_toNat]
  omega

/-- Settles O40: the codes of R8 for the states of each output. -/
theorem levelOutputsFollowState : Obligations.LevelOutputsFollowState := by
  unfold Obligations.LevelOutputsFollowState
  intro s
  rw [readReg_status_state, stateCode_toNat, busy, done, err]
  cases s.ctl <;> decide

end Sys2Proof.Machine
end

section
/-! SUPPORT. An event's outcome does not depend on the answer of the read port (`State.reply`, log entry 3): run with
another answer, it gives the same outcome with that answer. A clock cycle keeps the answer, and an operation-level step
clears it. -/

namespace Sys2Proof.Machine

section
variable (s : State) (r : Option Reply)

theorem sendFrames_reply (flag : Int) (a n : Nat) :
    sendFrames { s with reply := r } flag a n = sendFrames s flag a n := by
  induction n generalizing a with
  | zero => rfl
  | succ n ih => rw [sendFrames, sendFrames, ih]; rfl

theorem sendRange_reply (a b : Nat) (flag : Int) :
    sendRange { s with reply := r } a b flag = sendRange s a b flag := sendFrames_reply s r flag a (b - a)

/-- The outcome with the answer of the read port set. -/
def replied (r : Option Reply) (o : Host.Outcome State Fault Refusal) : Host.Outcome State Fault Refusal :=
  andThen o fun t => .next { t with reply := r }

theorem replied_ite (p : Prop) [Decidable p] (o o' : Host.Outcome State Fault Refusal) :
    replied r (if p then o else o') = if p then replied r o else replied r o' := apply_ite (replied r) p o o'

theorem openSender_reply : openSender { s with reply := r } = replied r (openSender s) := by
  have hcount : chunkCount { s with reply := r } = chunkCount s := rfl
  simp only [openSender, sendRange_reply, hcount]
  cases sendRange s 0 (min s.cfgN.toNat (chunkCount s)) 0 with
  | error f => rfl
  | ok burst => rw [replied_ite]; rfl

theorem startEvent_reply : startEvent { s with reply := r } = replied r (startEvent s) := by
  have hrole : startRole { s with reply := r } = replied r (startRole s) := by
    simp only [startRole, openSender_reply, replied_ite]
    rfl
  simp only [startEvent]
  split
  case h_4 | h_5 | h_6 => exact hrole
  all_goals rfl

theorem senderTick_reply : senderTick { s with reply := r } = replied r (senderTick s) := by
  have hend : windowEnd { s with reply := r } s.txBase.toNat = windowEnd s s.txBase.toNat := rfl
  simp only [senderTick, sendRange_reply, hend, replied_ite]
  cases sendRange s s.txBase.toNat (windowEnd s s.txBase.toNat) 1 <;> rfl

theorem tickEvent_reply : tickEvent { s with reply := r } = replied r (tickEvent s) := by
  simp only [tickEvent]
  split
  case h_1 => exact senderTick_reply s r
  case h_2 => simp only [receiverTick, replied_ite]; rfl
  all_goals rfl

theorem advanceWindow_reply (d : Nat) : advanceWindow { s with reply := r } d = replied r (advanceWindow s d) := by
  have hend : windowEnd { s with reply := r } (s.txBase.toNat + d + 1) = windowEnd s (s.txBase.toNat + d + 1) := rfl
  simp only [advanceWindow, sendRange_reply, hend, replied_ite]
  cases sendRange s s.txNext.toNat (windowEnd s (s.txBase.toNat + d + 1)) 0 <;> rfl

theorem recvEvent_reply (len : BitVec 7) (raw : List Byte) :
    recvEvent len raw { s with reply := r } = replied r (recvEvent len raw s) := by
  simp only [recvEvent]
  split
  case h_1 =>
    simp only [senderRecv]
    cases unpackFrame len.toNat raw with
    | noFrame | malformed => rfl
    | frame f => simp only [advanceWindow_reply, replied_ite]; rfl
  case h_2 =>
    simp only [receiverRecv]
    cases unpackFrame len.toNat raw with
    | noFrame | malformed => rfl
    | frame f => simp only [replied_ite]; rfl
  all_goals rfl

theorem execCfgwr_reply (k : BitVec 8) (v : Word) :
    execCfgwr k v { s with reply := r } = replied r (execCfgwr k v s) := by
  have hwrite : writeCfg { s with reply := r } k v = (writeCfg s k v).map fun t => { t with reply := r } := by
    simp only [writeCfg]
    split <;> rfl
  simp only [execCfgwr, hwrite]
  split
  case h_4 | h_5 | h_6 => cases writeCfg s k v <;> rfl
  all_goals rfl

theorem reservedEvent_reply : reservedEvent { s with reply := r } = replied r (reservedEvent s) := by
  simp only [reservedEvent]
  split <;> rfl

/-- No operation reads or writes the answer of a read port. -/
theorem exec_reply (i : Instr) : exec i { s with reply := r } = replied r (exec i s) := by
  cases i with
  | cfgwr k v => exact execCfgwr_reply s r k v
  | start | txStart | rxStart => exact startEvent_reply s r
  | txTick | rxTick => exact tickEvent_reply s r
  | txRecv len raw | rxRecv len raw => exact recvEvent_reply s r len raw
  | rsv7 | rsv8F => exact reservedEvent_reply s r
  | nop | pack | unpack => rfl

end

end Sys2Proof.Machine
end

section
/-! SUPPORT. Proofs on the cycle protocol (70_reset_and_hazards.md, R132): what one clock cycle does, and that a run of
cycles does what the operation-level run of its requests does. -/

namespace Sys2Proof.Machine

/-! ### One clock cycle (R132) -/

section
variable {c : CycleIn} {s t u : State}

theorem badRead_eq_none : badRead c = none ↔ ∀ i, c.txRead = some i ∨ c.rxRead = some i → i < Config.maxLen := by
  cases htx : c.txRead with
  | none => cases hrx : c.rxRead <;> simp [badRead, htx, hrx]
  | some i =>
    by_cases hi : i < Config.maxLen <;> cases hrx : c.rxRead <;> simp [badRead, htx, hrx, hi, or_imp, forall_and]

theorem cycle_eq_next {o : CycleOut} : cycle c s = .next (t, o) ↔
    badRead c = none ∧ o = cycleOut c s ∧
      ∃ u, cycleEdge c { s with draws := cycleDraws c s } = .next u ∧ cycleWrite c u = .next t := by
  cases hbad : badRead c with
  | some f => simp [cycle, hbad]
  | none =>
    simp only [cycle, hbad, andThen_eq_next, Host.Outcome.next.injEq, Prod.mk.injEq, true_and]
    constructor
    · rintro ⟨u, hu, v, hv, rfl, rfl⟩
      exact ⟨rfl, u, hu, hv⟩
    · rintro ⟨rfl, u, hu, hv⟩
      exact ⟨u, hu, t, hv, rfl, rfl⟩

theorem acceptedEvent_eq : acceptedEvent c s = if s.outq = [] ∧ c.rst = false then c.ev else none := by
  simp [acceptedEvent, eventReady]

theorem leavingOutput_eq :
    leavingOutput c s = if c.outReady = true ∧ c.rst = false then s.outq.head? else none := by
  simp [leavingOutput]

theorem cycleEdge_reset (hrst : c.rst = true) : cycleEdge c s = .next (resetBlock s) := if_pos hrst

theorem cycleEdge_accept {e : Event} (hrst : c.rst = false) (hq : s.outq = []) (he : c.ev = some e) :
    cycleEdge c s = acceptEvent e s := by
  simp only [cycleEdge, acceptedEvent_eq, hrst, hq, he]
  rfl

theorem acceptedEvent_idle (h : s.outq ≠ [] ∨ c.ev = none) : acceptedEvent c s = none := by
  rw [acceptedEvent_eq]
  rcases h with hq | he
  · exact if_neg fun h => hq h.1
  · rw [he, ite_self]

theorem cycleEdge_idle (hrst : c.rst = false) (h : s.outq ≠ [] ∨ c.ev = none) :
    cycleEdge c s = .next { s with outq := if c.outReady then s.outq.tail else s.outq } := by
  simp only [cycleEdge, hrst, acceptedEvent_idle h]
  rfl

/-- The three kinds of edge, and no other. -/
theorem cycleEdge_eq_next : cycleEdge c s = .next u ↔ afterEdge c s u := by
  constructor
  · intro h
    cases hrst : c.rst with
    | true => exact .inl ⟨hrst, Host.Outcome.next.inj (h.symm.trans (cycleEdge_reset hrst))⟩
    | false =>
      by_cases hidle : s.outq ≠ [] ∨ c.ev = none
      · exact .inr (.inr ⟨hrst, hidle, Host.Outcome.next.inj (h.symm.trans (cycleEdge_idle hrst hidle))⟩)
      · obtain ⟨hq, hev⟩ := not_or.mp hidle
        obtain ⟨e, he⟩ := Option.ne_none_iff_exists'.mp hev
        have hq := not_not.mp hq
        exact .inr (.inl ⟨hrst, hq, e, he, (cycleEdge_accept hrst hq he).symm.trans h⟩)
  · rintro (⟨hrst, rfl⟩ | ⟨hrst, hq, e, he, hu⟩ | ⟨hrst, hidle, rfl⟩)
    · exact cycleEdge_reset hrst
    · exact (cycleEdge_accept hrst hq he).trans hu
    · exact cycleEdge_idle hrst hidle

/-- The edge reads and writes no draw (log entry 6). -/
theorem afterEdge.withDraws (h : afterEdge c s u) (d : Nat) :
    afterEdge c { s with draws := d } { u with draws := d } := by
  rcases h with ⟨hrst, rfl⟩ | ⟨hrst, hq, e, he, hu⟩ | ⟨hrst, hidle, rfl⟩
  · exact .inl ⟨hrst, rfl⟩
  · exact .inr (.inl ⟨hrst, hq, e, he, by rw [acceptEvent_draws, hu]; rfl⟩)
  · exact .inr (.inr ⟨hrst, hidle, rfl⟩)

/-- No edge writes `TXBUF` (R32, R37). -/
theorem afterEdge.keeps_txbuf (h : afterEdge c s u) : u.txbuf = s.txbuf := by
  rcases h with ⟨-, rfl⟩ | ⟨-, -, e, -, hu⟩ | ⟨-, -, rfl⟩
  · rfl
  · exact (exec_effect hu).keeps_txbuf
  · rfl

theorem cycleWrite_none (h : c.txWrite = none) : cycleWrite c u = .next u := by rw [cycleWrite, h]

theorem cycleWrite_some {i : Nat} {v : Byte} (h : c.txWrite = some (i, v)) :
    cycleWrite c u = applyInput (.writeTx i v) u := by rw [cycleWrite, h]; rfl

/-- An allowed host write completes (R33, R134). -/
theorem cycleWrite_completes
    (h : ∀ i v, c.txWrite = some (i, v) → i < Config.maxLen ∧ ¬ (u.ctl = .txWait ∧ i < u.txLen.toNat)) :
    cycleWrite c u = .next { u with
      txbuf := match c.txWrite with | some (i, v) => Memory.write u.txbuf i v | none => u.txbuf } := by
  rcases hw : c.txWrite with _ | ⟨i, v⟩
  · exact cycleWrite_none hw
  · obtain ⟨hi, hfree⟩ := h i v hw
    rw [cycleWrite_some hw, applyInput, hostWriteTx, if_pos ((indexOk_iff i).mpr hi), if_neg hfree]

end

/-- Settles O58: an edge that happens and a host write that is allowed make the cycle complete. -/
theorem cycleFollowsTheHandshake : Obligations.CycleFollowsTheHandshake := by
  unfold Obligations.CycleFollowsTheHandshake
  refine fun c s hreads => ⟨fun u hedge hwrite => ?_, fun e f hrst hq hev hfault => ?_⟩
  · have hdraws := cycleEdge_eq_next.mpr (hedge.withDraws (cycleDraws c s))
    have hdone := cycleWrite_completes (u := { u with draws := cycleDraws c s }) hwrite
    refine ⟨_, _, cycle_eq_next.mpr ⟨badRead_eq_none.mpr hreads, rfl, _, hdraws, hdone⟩,
      by simp [cycleOut, eventReady], acceptedEvent_eq, rfl, leavingOutput_eq, rfl, ?_⟩
    exact hedge.keeps_txbuf ▸ rfl
  · have hedge : cycleEdge c { s with draws := cycleDraws c s } = .fault f :=
      (cycleEdge_accept (s := { s with draws := cycleDraws c s }) hrst hq hev).trans
        (by rw [acceptEvent_draws, hfault]; rfl)
    rw [cycle, badRead_eq_none.mpr hreads, hedge]
    rfl

/-! ### A cycle as a run of requests (R25, R45) -/

/-- The operation-level run of these requests from `s` comes to `t` in all but the port fields, and emits `os`. -/
def RunsTo (as : List Input) (s t : State) (os : List Output) : Prop :=
  ∃ t', runInputs as s = .next (t', os) ∧ settle t' = settle t

/-- The requests of a cycle's edge. -/
def edgeInputs (c : CycleIn) (s : State) : List Input :=
  if c.rst then [.rst] else (acceptedEvent c s).toList.map .event

theorem cycleInputs_eq (c : CycleIn) (s : State) : cycleInputs c s =
    c.regRead.toList.map .readReg ++ c.txRead.toList.map .readTx ++ c.rxRead.toList.map .readRx ++ edgeInputs c s ++
      c.txWrite.toList.map fun w => .writeTx w.1 w.2 := by
  unfold cycleInputs edgeInputs
  congr 4
  · cases c.regRead <;> rfl
  · cases c.txRead <;> rfl
  · cases c.rxRead <;> rfl
  · cases acceptedEvent c s <;> rfl
  · cases c.txWrite <;> rfl

section
variable {c : CycleIn} {s t u : State} {as bs : List Input} {os ps : List Output}

theorem RunsTo.nil (h : settle s = settle t) : RunsTo [] s t [] := ⟨s, rfl, h⟩

theorem RunsTo.single {a : Input} (h : applyInput a (settle s) = .next u) (hu : settle u = settle t) :
    RunsTo [a] s t u.outq := ⟨u, runInputs_singleton h, hu⟩

/-- A run does not depend on the port fields it starts with. -/
theorem RunsTo.congr (h : RunsTo as s t os) (hs : settle s = settle u) : RunsTo as u t os := by
  obtain ⟨t', hrun, ht⟩ := h
  cases as with
  | nil =>
    cases hrun
    exact .nil (hs.symm.trans ht)
  | cons a as => exact ⟨t', (runInputs_congr (by simp) hs.symm).trans hrun, ht⟩

theorem RunsTo.append (ha : RunsTo as s u os) (hb : RunsTo bs u t ps) : RunsTo (as ++ bs) s t (os ++ ps) := by
  obtain ⟨u', hrun, hu⟩ := ha
  obtain ⟨t', hrun', ht⟩ := hb.congr hu.symm
  exact ⟨t', runInputs_append hrun hrun', ht⟩

/-- The reads of a cycle emit nothing, and of the state they change the number of draws alone. -/
theorem runsTo_reads (h : badRead c = none) (s : State) :
    RunsTo (c.regRead.toList.map .readReg ++ c.txRead.toList.map .readTx ++ c.rxRead.toList.map .readRx) s
      { s with draws := cycleDraws c s } [] := by
  have hindex := badRead_eq_none.mp h
  have hreg : RunsTo (c.regRead.toList.map .readReg) s s [] := by
    cases c.regRead with
    | none => exact .nil rfl
    | some k => exact .single (u := hostReadReg k (settle s)) rfl rfl
  have htx : RunsTo (c.txRead.toList.map .readTx) s s [] := by
    cases hr : c.txRead with
    | none => exact .nil rfl
    | some i => exact .single (applyInput_readTx_next.mpr ⟨hindex i (.inl hr), rfl⟩) rfl
  have hrx : RunsTo (c.rxRead.toList.map .readRx) s { s with draws := cycleDraws c s } [] := by
    rw [cycleDraws]
    cases hr : c.rxRead with
    | none => exact .nil rfl
    | some i => exact .single (applyInput_readRx_next.mpr ⟨hindex i (.inr hr), rfl⟩) rfl
  exact (hreg.append htx).append hrx

theorem acceptEvent_settle {e : Event} (hq : s.outq = []) (h : acceptEvent e s = .next u) :
    acceptEvent e (settle s) = .next { u with reply := none } := by
  have hs : settle s = { s with reply := none } := by rw [settle, hq]
  rw [hs]
  exact (exec_reply s none _).trans (congrArg (replied none) h)

/-- The edge does what its requests do; its outputs join the queue and leave its head, unless a reset empties it. -/
theorem afterEdge.runsTo (h : afterEdge c s u) :
    ∃ os, RunsTo (edgeInputs c s) s u os ∧
      (c.rst = false → (leavingOutput c s).toList ++ u.outq = s.outq ++ os) := by
  rw [edgeInputs, leavingOutput_eq]
  rcases h with ⟨hrst, rfl⟩ | ⟨hrst, hq, e, he, hu⟩ | ⟨hrst, hidle, rfl⟩
  · rw [if_pos hrst]
    exact ⟨_, .single (a := .rst) rfl rfl, by simp [hrst]⟩
  · simp only [acceptedEvent_eq, hrst, hq, he]
    exact ⟨_, .single (a := .event e) (acceptEvent_settle hq hu) rfl, by simp⟩
  · rw [acceptedEvent_idle hidle, hrst]
    refine ⟨[], .nil rfl, fun _ => ?_⟩
    cases c.outReady <;> cases s.outq <;> simp

theorem runsTo_write (h : cycleWrite c u = .next t) :
    RunsTo (c.txWrite.toList.map fun w => .writeTx w.1 w.2) u t [] ∧ t.outq = u.outq := by
  rcases hw : c.txWrite with _ | ⟨i, v⟩
  · cases (cycleWrite_none hw).symm.trans h
    exact ⟨.nil rfl, rfl⟩
  · rw [cycleWrite_some hw] at h
    rcases applyInput_cases h with ⟨_, he, -⟩ | ⟨j, w, he, hj, hfree, rfl⟩ | ⟨_, he, -⟩ | ⟨_, he, -⟩ | ⟨_, he, -⟩ |
      ⟨he, -⟩
    all_goals cases he
    refine ⟨.single (u := { settle u with txbuf := Memory.write u.txbuf i v }) ?_ rfl, rfl⟩
    simp only [applyInput, hostWriteTx, (indexOk_iff i).mpr hj]
    exact if_neg hfree

/-- One cycle does what its requests do. -/
theorem cycle_runsTo {o : CycleOut} (h : cycle c s = .next (t, o)) :
    ∃ os, RunsTo (cycleInputs c s) s t os ∧ (c.rst = false → o.left.toList ++ t.outq = s.outq ++ os) := by
  obtain ⟨hbad, rfl, u, hedge, hwrite⟩ := cycle_eq_next.mp h
  obtain ⟨os, hos, hq⟩ := (cycleEdge_eq_next.mp hedge).runsTo
  obtain ⟨hw, hwq⟩ := runsTo_write hwrite
  refine ⟨os, ?_, fun hrst => hwq ▸ hq hrst⟩
  rw [cycleInputs_eq, ← List.append_nil os]
  exact ((runsTo_reads hbad s).append hos).append hw

theorem runCycles_cons_next {cs : List CycleIn} {outs : List CycleOut}
    (h : runCycles (c :: cs) s = .next (t, outs)) :
    ∃ u o os, cycle c s = .next (u, o) ∧ runCycles cs u = .next (t, os) ∧ outs = o :: os := by
  obtain ⟨⟨u, o⟩, hc, h⟩ := andThen_eq_next.mp h
  obtain ⟨⟨t', os⟩, hr, h⟩ := andThen_eq_next.mp h
  cases h
  exact ⟨u, o, os, hc, hr, rfl⟩

theorem runCycles_runsTo {cs : List CycleIn} {outs : List CycleOut} (h : runCycles cs s = .next (t, outs)) :
    ∃ os, RunsTo (cyclesInputs cs s) s t os ∧
      ((∀ c ∈ cs, c.rst = false) → leftOutputs outs ++ t.outq = s.outq ++ os) := by
  induction cs generalizing s outs with
  | nil =>
    cases h
    exact ⟨[], .nil rfl, fun _ => by simp [leftOutputs]⟩
  | cons c cs ih =>
    obtain ⟨u, o, outs, hc, hrest, rfl⟩ := runCycles_cons_next h
    obtain ⟨os, hos, hq⟩ := cycle_runsTo hc
    obtain ⟨ps, hps, hqs⟩ := ih hrest
    refine ⟨os ++ ps, ?_, fun hrst => ?_⟩
    · rw [cyclesInputs, hc]
      exact hos.append hps
    · obtain ⟨hfirst, hrsts⟩ := List.forall_mem_cons.mp hrst
      have hleft : leftOutputs (o :: outs) = o.left.toList ++ leftOutputs outs := by
        rw [leftOutputs, List.filterMap_cons]
        cases o.left <;> rfl
      rw [hleft, List.append_assoc, hqs hrsts, ← List.append_assoc, hq hfirst, List.append_assoc]

end

/-- Settles O54: states that agree in all but the port fields have the same architectural part. -/
theorem cyclesRefineOperations : Obligations.CyclesRefineOperations := by
  unfold Obligations.CyclesRefineOperations
  intro cs s t outs h
  obtain ⟨os, ⟨t', hrun, ht⟩, hq⟩ := runCycles_runsTo h
  exact ⟨t', os, hrun, by rw [← arch_settle t', ht, arch_settle], hq⟩

end Sys2Proof.Machine
end

section
/-! SUPPORT. Proofs on the boot sequences (70_reset_and_hazards.md, R129, R130): each request of a boot, and the state before
START. -/

namespace Sys2Proof.Machine

/-! ### The requests of a boot, one at a time -/

section
variable {s t : State} {as : List Input}

/-- A request that emits nothing is the first step of a run and no part of its outputs. -/
theorem runInputs_cons_quiet {a : Input} (ha : applyInput a (settle s) = .next t) (hq : t.outq = []) :
    runInputs (a :: as) s = runInputs as t := by
  rw [runInputs, ha, andThen, hq]
  cases runInputs as t <;> rfl

theorem runInputs_rst : runInputs (.rst :: as) s = runInputs as (resetBlock s) :=
  runInputs_cons_quiet (a := .rst) rfl rfl

/-- A configuration write where no connection is open (R105). -/
theorem runInputs_cfgwr {k : BitVec 8} {v : Word} (hr : s.ctl.ready = true) (h : writeCfg (settle s) k v = some t) :
    runInputs (.event (cfgwrEvent k v) :: as) s = runInputs as t := by
  have hrun : applyInput (.event (cfgwrEvent k v)) (settle s) = .next t :=
    (acceptEvent_event (i := .cfgwr k v) rfl (settle s)).trans (exec_cfgwr_written hr h)
  exact runInputs_cons_quiet hrun (writeCfg_keepsPorts h).1

/-- The host loads a byte string (R33). -/
theorem runInputs_writeTxFrom {a : Nat} {vs : List Byte} (hs : settle s = s) (hw : s.ctl ≠ .txWait)
    (hfit : a + vs.length ≤ Config.maxLen) :
    runInputs (writeTxFrom a vs ++ as) s = runInputs as { s with txbuf := Memory.writeRange s.txbuf a vs } := by
  induction vs generalizing a s with
  | nil => rfl
  | cons v vs ih =>
    rw [List.length_cons] at hfit
    have hi : a < Config.maxLen := by omega
    have hwrite : applyInput (.writeTx a v) (settle s) = .next { s with txbuf := Memory.write s.txbuf a v } := by
      rw [hs, applyInput, hostWriteTx, if_pos ((indexOk_iff a).mpr hi), if_neg fun h => hw h.1]
    have hs' : settle { s with txbuf := Memory.write s.txbuf a v } = { s with txbuf := Memory.write s.txbuf a v } := by
      rw [← hs]
      rfl
    have hq : s.outq = [] := by
      rw [← hs]
      rfl
    exact (runInputs_cons_quiet hwrite hq).trans (ih hs' hw (by omega))

end

/-! ### The receiver's boot (R130) -/

/-- The receiver before its START. -/
def bootedReceiver (s : State) (tr sport dport : Byte) : State :=
  { resetBlock s with cfgRole := 1, cfgTr := tr, cfgSport := sport, cfgDport := dport }

theorem setWidth_byte (b : Byte) : (b.setWidth 32).setWidth 8 = b := by simp

theorem runInputs_receiverBoot (s : State) {tr : Byte} (sport dport : Byte) (htr : tr ≠ 0) :
    runInputs (receiverBoot tr sport dport) s =
      .next ({ bootedReceiver s tr sport dport with ctl := .rxWait }, []) := by
  have hconfig : runInputs (receiverBoot tr sport dport) s =
      runInputs [.event (Event.plain 2)] (bootedReceiver s tr sport dport) := by
    rw [receiverBoot, runInputs_rst, runInputs_cfgwr rfl rfl, runInputs_cfgwr rfl rfl, runInputs_cfgwr rfl rfl,
      runInputs_cfgwr rfl rfl]
    simp only [setWidth_byte]
    rfl
  have hstart : applyInput (.event (Event.plain 2)) (settle (bootedReceiver s tr sport dport)) =
      .next { bootedReceiver s tr sport dport with ctl := .rxWait } :=
    (acceptEvent_start _ rfl).trans (startEvent_receiver rfl rfl ((receiverConfigOk_iff _).mpr htr))
  rw [hconfig, runInputs_singleton hstart]
  rfl

/-- Settles O56: the state is `bootedReceiver`, in `RX_WAIT`. -/
theorem receiverBootWaitsForFrames : Obligations.ReceiverBootWaitsForFrames := by
  unfold Obligations.ReceiverBootWaitsForFrames
  exact fun s tr sport dport htr => ⟨_, runInputs_receiverBoot s sport dport htr, rfl, rfl, rfl, rfl, rfl, rfl, rfl,
    rfl, rfl, rfl, rfl, rfl⟩

/-! ### The sender's boot (R129) -/

/-- Chunk `i` of an input: its bytes from `64 * i` on, at most 64 (R74). -/
def inputChunk (input : List Byte) (i : Nat) : List Byte := (input.drop (64 * i)).take 64

/-- `TXBUF` holds the input, whose length is in `TX_LEN`. -/
structure Loaded (s : State) (input : List Byte) : Prop where
  len   : s.txLen.toNat = input.length
  bytes : ∀ a, a < input.length → Memory.read s.txbuf a = input[a]?

namespace Loaded

variable {s : State} {input : List Byte}

protected theorem settle (h : Loaded s input) : Loaded (settle s) input := ⟨h.len, h.bytes⟩

protected theorem framesWritten (h : Loaded s input) (a b : Nat) : framesWritten s a b := by
  intro x _ hx
  have hlt : x < input.length := h.len ▸ Nat.lt_of_lt_of_le hx (Nat.min_le_right _ _)
  simp [h.bytes x hlt, hlt]

/-- The chunks the sender reads are those of the input. -/
protected theorem chunkBytes (h : Loaded s input) (i : Nat) : chunkBytes s i = inputChunk input i := by
  apply List.ext_getElem?
  intro k
  simp only [Machine.chunkBytes, inputChunk, h.len, List.getElem?_map, List.getElem?_take, List.getElem?_drop]
  by_cases hk : k < min 64 (input.length - 64 * i)
  · have hlt : 64 * i + k < input.length := by omega
    rw [List.getElem?_range hk, if_pos (by omega), Option.map_some, h.bytes _ hlt, List.getElem?_eq_getElem hlt]
    rfl
  · rw [List.getElem?_eq_none (by rw [List.length_range]; omega), Option.map_none]
    split
    · exact (List.getElem?_eq_none (by omega)).symm
    · rfl

protected theorem chunkCount (h : Loaded s input) : chunkCount s = (input.length + 63) / 64 := by
  rw [Machine.chunkCount, h.len]
  rfl

protected theorem wireDataFrame (h : Loaded s input) (flag : Byte) (i : Nat) : wireDataFrame s flag i =
    [s.cfgSport, s.cfgDport, BitVec.ofNat 8 i, 0, 7, 0, flag] ++ inputChunk input i := by
  rw [Machine.wireDataFrame, h.chunkBytes]

end Loaded

/-- The sender before its START. -/
def bootedSender (s : State) (input : List Byte) (n t sport dport : Byte) : State :=
  { resetBlock s with
    txbuf := Memory.writeRange s.txbuf 0 input, txLen := BitVec.ofNat 32 input.length, cfgN := n, cfgT := t,
    cfgSport := sport, cfgDport := dport, cfgRole := 0 }

section
variable {input : List Byte} (s : State) (n t sport dport : Byte)

theorem bootedSender_loaded (hfit : input.length ≤ Config.maxLen) :
    Loaded (bootedSender s input n t sport dport) input where
  len := by
    have := maxLen_le
    exact ofNat_index (by omega)
  bytes := fun a ha => (Memory.read_writeRange _ _ _ _).trans (if_pos ⟨Nat.zero_le a, by omega⟩)

theorem runInputs_senderBoot (hfit : input.length ≤ Config.maxLen) :
    runInputs (senderBoot input n t sport dport) s =
      runInputs [.event (Event.plain 2)] (bootedSender s input n t sport dport) := by
  rw [senderBoot, List.cons_append, runInputs_rst, runInputs_writeTxFrom rfl (by simp [State.reset]) (by omega),
    runInputs_cfgwr rfl rfl, runInputs_cfgwr rfl rfl, runInputs_cfgwr rfl rfl, runInputs_cfgwr rfl rfl,
    runInputs_cfgwr rfl rfl, runInputs_cfgwr rfl rfl]
  simp only [setWidth_byte]
  rfl

end

/-- Settles O55: START finds the input loaded, so the first window of frames carries its chunks. -/
theorem senderBootSendsTheFirstWindow : Obligations.SenderBootSendsTheFirstWindow := by
  unfold Obligations.SenderBootSendsTheFirstWindow
  rintro s input n t sport dport _ hn1 hn hT hfit rfl
  have hload := (bootedSender_loaded s n t sport dport hfit).settle
  have hlegal : senderConfigLegal (settle (bootedSender s input n t sport dport)) := ⟨hn1, hn, hT, hload.len ▸ hfit⟩
  have hstart : applyInput (.event (Event.plain 2)) (settle (bootedSender s input n t sport dport)) = _ :=
    (acceptEvent_start _ rfl).trans
      ((startEvent_sender rfl rfl hlegal).trans (openSender_of_written (hload.framesWritten _ _)))
  have hmax := maxLen_le
  have hempty : (input.length + 63) / 64 = 0 ↔ input = [] := by
    rw [← List.length_eq_zero_iff]
    omega
  have hwindow : min n.toNat ((input.length + 63) / 64) ≤ 2 ^ 25 := by omega
  rw [runInputs_senderBoot s n t sport dport hfit]
  refine ⟨_, _, runInputs_singleton hstart, ?_, rfl, ?_, ?_, hload.len, rfl, rfl, hload.bytes, ?_⟩
  · simp only [hload.chunkCount, hempty]
  · rw [hload.chunkCount]
    exact ofNat_index (by omega)
  · rw [hload.chunkCount]
    exact ofNat_index hwindow
  · simp only [hload.chunkCount, hempty, settle_outq, List.nil_append, wireSends, hload.wireDataFrame,
      List.range_eq_range', Nat.sub_zero]
    rfl

end Sys2Proof.Machine
end

section
/-! SUPPORT. What one event emits (70_reset_and_hazards.md, R132, R139): the outputs of each operation fit the output queue and
the output port. -/

namespace Sys2Proof.Machine

/-! ### What one event emits fits the port (R132, R139) -/

/-- At most 127 outputs: frames, or one Close, or one Result, each of at most the port's 71 bytes. -/
structure FitsPort (os : List Output) : Prop where
  count  : os.length ≤ 127
  close  : .close ∈ os → os = [.close]
  send   : ∀ bytes, .send bytes ∈ os → 7 ≤ bytes.length ∧ bytes.length ≤ 71
  result : ∀ c bytes, .result c bytes ∈ os → os = [.result c bytes] ∧ bytes.length ≤ 71 ∧ (c ≠ .frame → bytes = [])

namespace FitsPort

theorem nil : FitsPort [] := ⟨by decide, nofun, nofun, nofun⟩

theorem singleClose : FitsPort [.close] := ⟨by decide, fun _ => rfl, by simp, by simp⟩

/-- Frames of data, at most a window of them (R10, R76). -/
theorem frames {s : State} {r : Int} {a b : Nat} {os : List Output} (h : sendRange s a b r = .ok os)
    (hab : b - a ≤ 127) : FitsPort os := by
  obtain ⟨hlen, hsend⟩ := sendRange_ok h
  refine ⟨hlen ▸ hab, fun hc => ?_, fun bytes hb => ?_, fun c bytes hb => ?_⟩
  · obtain ⟨_, hc, -⟩ := hsend _ hc
    cases hc
  · obtain ⟨_, heq, hl⟩ := hsend _ hb
    cases heq
    exact hl
  · obtain ⟨_, hc, -⟩ := hsend _ hb
    cases hc

theorem ack (s : State) (e : Byte) : FitsPort [.send (ackFrame s e)] := by
  have hlen : (ackFrame s e).length = 7 := packFrame_length _
  exact ⟨by simp, by simp, by simp [hlen], by simp⟩

theorem singleResult {c : ResultCode} {bytes : List Byte} (hl : bytes.length ≤ 71) (hc : c ≠ .frame → bytes = []) :
    FitsPort [.result c bytes] := by
  refine ⟨by simp, by simp, by simp, fun c' bytes' h => ?_⟩
  cases List.mem_singleton.mp h
  exact ⟨rfl, hl, hc⟩

protected theorem packResult {len : BitVec 7} {payload : List Byte} (h : payloadOperandOk len payload = true)
    (hd : Header) :
    FitsPort [packResult len hd payload] := by
  rcases Nat.lt_or_ge 64 len.toNat with hl | hl
  · rw [packResult_badLen hl]
    exact singleResult (by simp) fun _ => rfl
  · rw [packResult_frame hl]
    refine singleResult ?_ fun hc => absurd rfl hc
    simp only [payloadOperandOk, beq_iff_eq, Config.chunkSize, hl, if_true] at h
    simp only [List.length_append, List.length_cons, List.length_nil]
    omega

protected theorem unpackResult {len : BitVec 7} {raw : List Byte} (h : frameOperandOk len raw = true) :
    FitsPort [unpackResult len raw] := by
  rcases frameOperandOk_cases h with rfl | hlen | hraw
  · exact singleResult (Nat.zero_le _) fun _ => rfl
  · rw [unpackResult_malformed hlen]
    exact singleResult (Nat.zero_le _) fun _ => rfl
  · obtain ⟨-, h71, hl⟩ := id hraw
    rw [unpackResult_frame hraw]
    exact singleResult (by rw [List.length_set]; omega) fun hc => absurd rfl hc

section
variable {s t : State}

protected theorem takeFault (hq : s.outq = []) (c : Cause) : FitsPort (takeFault c s).outq := by
  rw [takeFault_outq, hq]
  split
  · exact singleClose
  · exact nil

protected theorem execCfgwr {k : BitVec 8} {v : Word} (hq : s.outq = []) (h : execCfgwr k v s = .next t) :
    FitsPort t.outq := by
  by_cases he : s.ctl = .error
  · cases (execCfgwr_error he k v).symm.trans h
    exact hq ▸ nil
  rcases ready_or_open he with hr | ho
  · cases (execCfgwr_ready hr k v).symm.trans h
    split
    · obtain ⟨hkeep, -⟩ := writeCfg_keepsPorts ‹_›
      exact (hkeep.trans hq) ▸ nil
    · exact .takeFault hq _
  · cases (execCfgwr_open ho k v).symm.trans h
    exact .takeFault hq _

protected theorem reservedEvent (hq : s.outq = []) (h : reservedEvent s = .next t) : FitsPort t.outq := by
  by_cases he : s.ctl = .error
  · cases (reservedEvent_error he).symm.trans h
    exact hq ▸ nil
  · cases (reservedEvent_fault he).symm.trans h
    exact .takeFault hq _

/-- The burst is at most a window; of an empty input it is nothing but the Close. -/
protected theorem openSender (hq : s.outq = []) (hok : senderConfigLegal s) (h : openSender s = .next t) :
    FitsPort t.outq := by
  obtain ⟨-, hN, -⟩ := hok
  simp only [Machine.openSender] at h
  split at h
  · cases h
  · rename_i burst hb
    split at h
    · rename_i h0
      cases h
      have hburst : burst.length = 0 := by rw [(sendRange_ok hb).1, h0]; omega
      rw [emit_outq, hq, List.eq_nil_of_length_eq_zero hburst]
      exact singleClose
    · cases h
      rw [emit_outq, hq]
      exact frames hb (by omega)

protected theorem startEvent (hq : s.outq = []) (h : startEvent s = .next t) : FitsPort t.outq := by
  by_cases he : s.ctl = .error
  · cases (startEvent_error he).symm.trans h
    exact hq ▸ nil
  rcases ready_or_open he with hr | ho
  · cases hok : startOk s with
    | false =>
      cases (startEvent_invalidMode hr hok).symm.trans h
      exact .takeFault hq _
    | true =>
      by_cases h0 : s.cfgRole = 0
      · have hlegal := (senderConfigOk_iff s).mp ((startOk_sender h0).symm.trans hok)
        exact .openSender hq hlegal ((startEvent_sender hr h0 hlegal).symm.trans h)
      · by_cases h1 : s.cfgRole = 1
        · cases (startEvent_receiver hr h1 ((startOk_receiver h1).symm.trans hok)).symm.trans h
          exact hq ▸ nil
        · cases (startOk_noRole h0 h1).symm.trans hok
  · cases (startEvent_open ho).symm.trans h
    exact .takeFault hq _

protected theorem senderTick (hq : s.outq = []) (hs : SenderInv s) (h : senderTick s = .next t) : FitsPort t.outq := by
  obtain ⟨-, hN, -⟩ := (senderConfigOk_iff s).mp hs.config
  simp only [Machine.senderTick] at h
  split at h
  · split at h
    · cases h
    · cases h
      rw [emit_outq, hq]
      refine frames ‹_› ?_
      rw [windowEnd]
      omega
  · cases h
    exact hq ▸ nil

protected theorem advanceWindow {d : Nat} (hq : s.outq = []) (hs : SenderInv s) (hd : d < s.cfgN.toNat)
    (h : advanceWindow s d = .next t) : FitsPort t.outq := by
  obtain ⟨-, hN, -⟩ := (senderConfigOk_iff s).mp hs.config
  have hnext := hs.next
  simp only [Machine.advanceWindow] at h
  split at h
  · cases h
    rw [emit_outq, hq]
    exact singleClose
  · split at h
    · cases h
    · cases h
      rw [emit_outq, hq]
      refine frames ‹_› ?_
      rw [windowEnd] at hnext ⊢
      omega

protected theorem senderRecv {len : BitVec 7} {raw : List Byte} (hq : s.outq = []) (hs : SenderInv s)
    (h : senderRecv len raw s = .next t) : FitsPort t.outq := by
  simp only [Machine.senderRecv] at h
  split at h
  · cases h
    exact hq ▸ nil
  · cases h
    exact .takeFault hq _
  · split at h
    · exact .advanceWindow hq hs (of_decide_eq_true ‹_›) h
    · cases h
      exact hq ▸ nil

protected theorem receiverRecv {len : BitVec 7} {raw : List Byte} (hq : s.outq = [])
    (h : receiverRecv len raw s = .next t) : FitsPort t.outq := by
  simp only [Machine.receiverRecv] at h
  split at h
  · cases h
    exact hq ▸ nil
  · cases h
    rw [emit_outq, hq]
    exact singleClose
  · split at h
    · split at h <;> cases h
      · rw [acceptPayload_outq, hq]
        exact ack s _
      · exact .takeFault hq _
    · cases h
      rw [discardFrame_outq, hq]
      exact ack s _

protected theorem tickEvent (hq : s.outq = []) (hs : s.Inv) (h : tickEvent s = .next t) : FitsPort t.outq := by
  cases ho : connectionOpen s.ctl with
  | false =>
    cases (tickEvent_closed ho).symm.trans h
    exact hq ▸ nil
  | true =>
    rcases open_cases ho with hw | hw
    · exact .senderTick hq (hs.sender hw) ((tickEvent_txWait hw).symm.trans h)
    · cases ((tickEvent_rxWait hw).trans (receiverTick_eq s)).symm.trans h
      exact hq ▸ nil

protected theorem recvEvent {len : BitVec 7} {raw : List Byte} (hq : s.outq = []) (hs : s.Inv)
    (h : recvEvent len raw s = .next t) : FitsPort t.outq := by
  cases ho : connectionOpen s.ctl with
  | false =>
    cases (recvEvent_closed ho len raw).symm.trans h
    exact hq ▸ nil
  | true =>
    rcases open_cases ho with hw | hw
    · exact .senderRecv hq (hs.sender hw) ((recvEvent_txWait hw len raw).symm.trans h)
    · exact .receiverRecv hq ((recvEvent_rxWait hw len raw).symm.trans h)

protected theorem acceptEvent {e : Event} (hq : s.outq = []) (hs : s.Inv) (h : acceptEvent e s = .next t) :
    FitsPort t.outq := by
  have hemit (o : Output) : (emit s [o]).outq = [o] := by rw [emit_outq, hq]; rfl
  rcases code_cases e.code with hc | hc | hc | hc | hc | hc | hc | hc | hc
  · cases (acceptEvent_nop s hc).symm.trans h
    exact hq ▸ nil
  · exact .execCfgwr hq ((acceptEvent_cfgwr s hc).symm.trans h)
  · exact .startEvent hq ((acceptEvent_start s hc).symm.trans h)
  · exact .tickEvent hq hs ((acceptEvent_tick s hc).symm.trans h)
  · exact .recvEvent hq hs ((acceptEvent_recv s hc).symm.trans h)
  · cases (acceptEvent_pack s hc).symm.trans h
    rw [hemit]
    exact .packResult (payloadOperand_wf e) _
  · cases (acceptEvent_unpack s hc).symm.trans h
    rw [hemit]
    exact .unpackResult (frameOperand_wf e)
  · exact .reservedEvent hq ((acceptEvent_reserved s (by rw [hc]; decide)).symm.trans h)
  · exact .reservedEvent hq ((acceptEvent_reserved s (Nat.le_of_succ_le hc)).symm.trans h)

end

end FitsPort

/-- Settles O52, event by event; the invariant bounds the window of a sender in the middle of a transfer. -/
theorem outputsFitThePort : Obligations.OutputsFitThePort := by
  unfold Obligations.OutputsFitThePort
  intro s t e hs hq h
  obtain ⟨hcount, hclose, hsend, hresult⟩ := FitsPort.acceptEvent hq hs h
  exact ⟨hcount, hclose, hsend, hresult⟩

end Sys2Proof.Machine
end

section
/-! SUPPORT. Proofs on the transport between two blocks (20_memory.md R48, 70_reset_and_hazards.md R136): what a delivery
and a drop are. -/

namespace Sys2Proof.Machine

/-! ### The transport's RECVs (R136, R48) -/

section
variable {bytes : List Byte}

theorem frameOperandOk_ofNat (h : bytes.length ≤ 71) : frameOperandOk (BitVec.ofNat 7 bytes.length) bytes = true := by
  simp [frameOperandOk, ofNat_frameLength h, Config.maxFrame, h]

/-- Both rows of code 4 are the RECV that delivers these bytes. -/
theorem acceptEvent_recvBytes (h : bytes.length ≤ 71) (s : State) :
    acceptEvent (recvBytes bytes) s = recvEvent (BitVec.ofNat 7 bytes.length) bytes s :=
  acceptEvent_event (i := .rxRecv _ bytes) (frameOperandOk_ofNat h) s

end

theorem dropHead_close (rest : List Packet) : dropHead (.close :: rest) = .close :: rest := rfl

section
variable {c : Connection} {p : Packet} {rest : List Packet}

theorem act_deliverToReceiver (h : c.toRcv = p :: rest) :
    act .deliverToReceiver c = atReceiverStep (.event p.event) { c with toRcv := rest } := by simp only [act, h]

theorem act_deliverToSender (h : c.toSnd = p :: rest) :
    act .deliverToSender c = atSenderStep (.event p.event) { c with toSnd := rest } := by simp only [act, h]

theorem act_dropToReceiver (c : Connection) : act .dropToReceiver c = .next { c with toRcv := dropHead c.toRcv } := rfl

theorem act_dropToSender (c : Connection) : act .dropToSender c = .next { c with toSnd := dropHead c.toSnd } := rfl

end

/-- Settles O59: a delivery is the RECV of the packet's bytes, and a close's RECV is empty. -/
theorem transportAloneBringsFrames : Obligations.TransportAloneBringsFrames := by
  unfold Obligations.TransportAloneBringsFrames
  refine fun c => ⟨fun e he => ?_, fun bytes rest hlen h => ⟨?_, ?_⟩, fun bytes rest hlen h => ⟨?_, ?_⟩,
    fun rest h => ⟨?_, ?_⟩, fun rest h => ⟨?_, ?_⟩⟩
  · simp [act, bringsRecv, he]
  · rw [act_deliverToReceiver h]
    exact congrArg (andThen · _) (acceptEvent_recvBytes hlen (settle c.rcv))
  · rw [act_dropToReceiver, h]
    rfl
  · rw [act_deliverToSender h]
    exact congrArg (andThen · _) (acceptEvent_recvBytes hlen (settle c.snd))
  · rw [act_dropToSender, h]
    rfl
  · rw [act_deliverToReceiver h]
    exact congrArg (andThen · _) (acceptEvent_recvBytes (bytes := []) (Nat.zero_le _) (settle c.rcv))
  · rw [act_dropToReceiver, h, dropHead_close, ← h]
  · rw [act_deliverToSender h]
    exact congrArg (andThen · _) (acceptEvent_recvBytes (bytes := []) (Nat.zero_le _) (settle c.snd))
  · rw [act_dropToSender, h, dropHead_close, ← h]

end Sys2Proof.Machine
end

section
/-! SUPPORT. A transfer over a transport that loses frames (20_memory.md R48): its numbers, and what each direction
carries. Nothing here speaks of a step of the model. -/

namespace Sys2Proof.Machine

/-! ### The numbers of a transfer -/

/-- The numbers of a transfer of `total` chunks under a window of `N`: the sender's base, how many chunks the receiver
has, the indices of the frames under way, and the counts that the ACKs under way acknowledge, oldest first. A frame is
sent in the window of its time and the transport keeps order, so no frame is `N` or more below one in front of it. -/
structure Transfer (N total base got : Nat) (frames acks : List Nat) : Prop where
  base_le     : base ≤ got
  got_le      : got ≤ min (base + N) total
  frames_lt   : ∀ i ∈ frames, i < min (base + N) total
  frames_ge   : ∀ i ∈ frames, got ≤ i + N
  frames_near : frames.Pairwise fun i j => i < j + N
  acks_mem    : ∀ a ∈ acks, base ≤ a ∧ a ≤ got
  acks_rise   : acks.Pairwise (· ≤ ·)

namespace Transfer

variable {N total base got i a : Nat} {frames acks : List Nat}

theorem start (N total : Nat) : Transfer N total 0 0 [] [] :=
  ⟨Nat.le_refl 0, Nat.zero_le _, nofun, nofun, .nil, nofun, .nil⟩

theorem send (h : Transfer N total base got frames acks) {is : List Nat}
    (his : ∀ i ∈ is, base ≤ i ∧ i < min (base + N) total) : Transfer N total base got (frames ++ is) acks where
  base_le := h.base_le
  got_le := h.got_le
  frames_lt := fun i hi => (List.mem_append.mp hi).elim (h.frames_lt i) fun hi => (his i hi).2
  frames_ge := fun i hi => (List.mem_append.mp hi).elim (h.frames_ge i) fun hi => by
    have := his i hi
    have := h.got_le
    omega
  frames_near := by
    have hnear (i j : Nat) (hi : i < min (base + N) total) (hj : base ≤ j) : i < j + N := by omega
    refine List.pairwise_append.mpr ⟨h.frames_near, ?_, fun i hi j hj => hnear i j (h.frames_lt i hi) (his j hj).1⟩
    exact List.pairwise_of_forall_mem_list fun i hi j hj => hnear i j (his i hi).2 (his j hj).1
  acks_mem := h.acks_mem
  acks_rise := h.acks_rise

theorem loseFrame (h : Transfer N total base got (i :: frames) acks) : Transfer N total base got frames acks :=
  { h with
    frames_lt := (List.forall_mem_cons.mp h.frames_lt).2
    frames_ge := (List.forall_mem_cons.mp h.frames_ge).2
    frames_near := (List.pairwise_cons.mp h.frames_near).2 }

theorem loseAck (h : Transfer N total base got frames (a :: acks)) : Transfer N total base got frames acks :=
  { h with
    acks_mem := (List.forall_mem_cons.mp h.acks_mem).2
    acks_rise := (List.pairwise_cons.mp h.acks_rise).2 }

/-- An index of a frame under way is that of the next chunk iff its byte on the wire is: less than 256 lie between. -/
theorem expected_iff (h : Transfer N total base got (i :: frames) acks) (hN : N ≤ 127) :
    i % 256 = got % 256 ↔ i = got := by
  have hlt := (List.forall_mem_cons.mp h.frames_lt).1
  have hge := (List.forall_mem_cons.mp h.frames_ge).1
  have := h.base_le
  omega

/-- The receiver answers with the number of chunks it has. -/
theorem answer (h : Transfer N total base got frames acks) : Transfer N total base got frames (acks ++ [got]) :=
  { h with
    acks_mem := fun a ha => (List.mem_append.mp ha).elim (h.acks_mem a) fun ha =>
      (List.mem_singleton.mp ha).symm ▸ ⟨h.base_le, Nat.le_refl got⟩
    acks_rise := List.pairwise_append.mpr ⟨h.acks_rise, List.pairwise_singleton _ _, fun a ha _ hb =>
      List.mem_singleton.mp hb ▸ (h.acks_mem a ha).2⟩ }

theorem accept (h : Transfer N total base got (got :: frames) acks) : Transfer N total base (got + 1) frames acks where
  base_le := Nat.le_succ_of_le h.base_le
  got_le := (List.forall_mem_cons.mp h.frames_lt).1
  frames_lt := h.loseFrame.frames_lt
  frames_ge := (List.pairwise_cons.mp h.frames_near).1
  frames_near := h.loseFrame.frames_near
  acks_mem := fun a ha => (h.acks_mem a ha).imp_right Nat.le_succ_of_le
  acks_rise := h.acks_rise

/-- The oldest ACK moves the base to what it acknowledges. -/
theorem advance (h : Transfer N total base got frames (a :: acks)) : Transfer N total a got frames acks := by
  obtain ⟨⟨hbase, hgot⟩, -⟩ := List.forall_mem_cons.mp h.acks_mem
  obtain ⟨hrise, hrest⟩ := List.pairwise_cons.mp h.acks_rise
  have hend : min (base + N) total ≤ min (a + N) total := by omega
  exact {
    base_le := hgot
    got_le := Nat.le_trans h.got_le hend
    frames_lt := fun i hi => Nat.lt_of_lt_of_le (h.frames_lt i hi) hend
    frames_ge := h.frames_ge
    frames_near := h.frames_near
    acks_mem := fun b hb => ⟨hrise b hb, (h.loseAck.acks_mem b hb).2⟩
    acks_rise := hrest }

end Transfer

/-! ### What is under way in one direction -/

/-- The packets are frames that hold these numbers, in order, and then perhaps a close, if the direction is closed. -/
inductive Carries (Holds : Nat → List Byte → Prop) (closed : Prop) : List Packet → List Nat → Prop where
  | nil : Carries Holds closed [] []
  | close (h : closed) : Carries Holds closed [.close] []
  | frame {bytes : List Byte} {i : Nat} {ps : List Packet} {is : List Nat} (h : Holds i bytes)
      (rest : Carries Holds closed ps is) : Carries Holds closed (.frame bytes :: ps) (i :: is)

namespace Carries

variable {Holds : Nat → List Byte → Prop} {P Q : Prop} {ps qs : List Packet} {is js : List Nat}

/-- New packets queue behind the old ones; behind a close comes nothing. -/
theorem append (h : Carries Holds P ps is) (h' : Carries Holds Q qs js) (hclosed : P → Q ∧ qs = []) :
    Carries Holds Q (ps ++ qs) (is ++ js) := by
  induction h with
  | nil => exact h'
  | close hP =>
    obtain ⟨hQ, rfl⟩ := hclosed hP
    cases h'
    exact .close hQ
  | frame hb _ ih => exact .frame hb ih

theorem dropHead (h : Carries Holds P ps is) :
    ∃ js, Carries Holds P (dropHead ps) js ∧ (js = is ∨ ∃ i, is = i :: js) := by
  cases h with
  | nil => exact ⟨[], .nil, .inl rfl⟩
  | close hP => exact ⟨[], .close hP, .inl rfl⟩
  | frame _ rest => exact ⟨_, rest, .inr ⟨_, rfl⟩⟩

theorem sends {f : Nat → List Byte} (hf : ∀ i, Holds i (f i)) (is : List Nat) :
    Carries Holds P (packets (is.map fun i => .send (f i))) is := by
  induction is with
  | nil => exact .nil
  | cons i is ih => exact .frame (hf i) ih

end Carries

/-! ### The frames on the wire -/

theorem flatten_inputChunk (input : List Byte) (k : Nat) :
    ((List.range k).map (inputChunk input)).flatten = input.take (64 * k) := by
  induction k with
  | zero => rfl
  | succ k ih =>
    rw [List.range_succ, List.map_append, List.flatten_append, ih, Nat.mul_succ, List.take_add]
    simp [inputChunk]

/-- `ceil_div(len, 64)` (R74). -/
def inputChunks (input : List Byte) : Nat := (input.length + 63) / 64

theorem inputChunks_le {input : List Byte} (h : input.length ≤ Config.maxLen) : inputChunks input ≤ 2 ^ 19 := by
  have := maxLen_le
  rw [inputChunks]
  omega

/-- Data frame `i` of this input, of whatever ports and flag (R75). -/
def IsDataFrame (input : List Byte) (i : Nat) (bytes : List Byte) : Prop :=
  ∃ sport dport flag, bytes = [sport, dport, BitVec.ofNat 8 i, 0, 7, 0, flag] ++ inputChunk input i

/-- The ACK of a receiver that has accepted `a` frames, of whatever ports (R92). -/
def IsAckFrame (a : Nat) (bytes : List Byte) : Prop :=
  ∃ sport dport, bytes = [sport, dport, 0, BitVec.ofNat 8 a - 1, 7, 0, 0]

theorem isFrameOperand_ofNat {bytes : List Byte} (h7 : 7 ≤ bytes.length) (h71 : bytes.length ≤ 71) :
    isFrameOperand (BitVec.ofNat 7 bytes.length) bytes := by
  have hlen := ofNat_frameLength h71
  exact ⟨hlen.symm ▸ h7, hlen.symm ▸ h71, hlen.symm⟩

section
variable {input bytes : List Byte} {i : Nat}

theorem IsDataFrame.length (h : IsDataFrame input i bytes) : 7 ≤ bytes.length ∧ bytes.length ≤ 71 := by
  obtain ⟨sport, dport, flag, rfl⟩ := h
  simp only [inputChunk, List.length_append, List.length_cons, List.length_nil, List.length_take]
  omega

/-- What a receiver that expects chunk `got` takes from data frame `i` (R97, R98). -/
theorem IsDataFrame.acceptedPayloads (h : IsDataFrame input i bytes) (got : Nat) :
    acceptedPayloads got [bytes] = if i % 256 = got % 256 then [inputChunk input i] else [] := by
  obtain ⟨sport, dport, flag, rfl⟩ := h
  simp [Machine.acceptedPayloads]

theorem IsAckFrame.length (h : IsAckFrame i bytes) : bytes.length = 7 := by
  obtain ⟨sport, dport, rfl⟩ := h
  rfl

/-- The distance of an ACK of the window (R77): one below the number of frames it acknowledges; an ACK that acknowledges
none lies a whole turn ahead. -/
theorem IsAckFrame.distance {s : State} (h : IsAckFrame i bytes) (hbase : s.txBase.toNat ≤ i)
    (hend : i ≤ s.txBase.toNat + 127) :
    wireAckDistance s bytes = if i = s.txBase.toNat then 255 else i - s.txBase.toNat - 1 := by
  obtain ⟨sport, dport, rfl⟩ := h
  have hone : (1 : Byte).toNat = 1 := rfl
  simp only [wireAckDistance, List.getD_cons_succ, List.getD_cons_zero, BitVec.toNat_sub, BitVec.toNat_ofNat, hone]
  split <;> omega

end

theorem wireDataFrame_isDataFrame {s : State} {input : List Byte} (h : Loaded s input) (flag : Byte) (i : Nat) :
    IsDataFrame input i (wireDataFrame s flag i) := ⟨_, _, flag, h.wireDataFrame flag i⟩

theorem carries_wireSends {s : State} {input : List Byte} (h : Loaded s input) (flag : Byte) (a b : Nat) (P : Prop) :
    Carries (IsDataFrame input) P (packets (wireSends s flag a b)) (List.range' a (b - a)) :=
  .sends (wireDataFrame_isDataFrame h flag) _

end Sys2Proof.Machine
end

section
/-! SUPPORT. What the two blocks of a transfer do with a TICK, a frame, an ACK and a close (41_sender.md,
42_receiver.md). -/

namespace Sys2Proof.Machine

/-! ### The sender of a transfer -/

/-- The sender is in the middle of the transfer of this input, or has completed it. -/
structure Sending (N : Nat) (input : List Byte) (s : State) : Prop where
  loaded : Loaded s input
  size   : s.cfgN.toNat = N
  total  : s.txTotal.toNat = inputChunks input
  phase  : s.ctl = .txWait ∧ s.txBase.toNat < inputChunks input ∧
      s.txNext.toNat = min (s.txBase.toNat + N) (inputChunks input) ∨
    s.ctl = .txDone ∧ s.txBase.toNat = inputChunks input

/-- The registers and the buffer that a transfer rests on are as before. -/
structure KeepsSender (s t : State) : Prop where
  ctl     : t.ctl = s.ctl
  cfgN    : t.cfgN = s.cfgN
  txLen   : t.txLen = s.txLen
  txBase  : t.txBase = s.txBase
  txNext  : t.txNext = s.txNext
  txTotal : t.txTotal = s.txTotal
  txbuf   : t.txbuf = s.txbuf

/-- The event takes the sender from `s` to a state with this base, and what it sends are frames of the window there, or
the close. -/
structure Sends (N : Nat) (input : List Byte) (s t : State) (base : Nat) (frames : List Nat) : Prop where
  sending : Sending N input t
  base_eq : t.txBase.toNat = base
  carried : Carries (IsDataFrame input) (t.ctl = .txDone) (packets t.outq) frames
  window  : ∀ i ∈ frames, base ≤ i ∧ i < min (base + N) (inputChunks input)
  closed  : s.ctl = .txDone → t.ctl = .txDone ∧ packets t.outq = []

section
variable {N : Nat} {input : List Byte} {s t : State}

theorem Sending.keep (h : Sending N input s) (hk : KeepsSender s t) : Sending N input t where
  loaded := ⟨hk.txLen ▸ h.loaded.len, hk.txbuf ▸ h.loaded.bytes⟩
  size := hk.cfgN ▸ h.size
  total := hk.txTotal ▸ h.total
  phase := by rw [hk.ctl, hk.txBase, hk.txNext]; exact h.phase

/-- An event that sends nothing. -/
theorem Sending.quiet (h : Sending N input s) (hk : KeepsSender s t) (hq : packets t.outq = []) :
    Sends N input s t s.txBase.toNat [] where
  sending := h.keep hk
  base_eq := by rw [hk.txBase]
  carried := hq ▸ .nil
  window := nofun
  closed := fun hd => ⟨hk.ctl.trans hd, hq⟩

/-- An event that changes at most `TIMER`, or ignores what it brings. -/
theorem Sending.timer (h : Sending N input s) (hq : s.outq = []) (v : BitVec 8) :
    Sends N input s { s with timer := v } s.txBase.toNat [] :=
  h.quiet ⟨rfl, rfl, rfl, rfl, rfl, rfl, rfl⟩ (by rw [hq]; rfl)

/-- An event that sends the frames of index in `[a, b)`, which the window at the new base holds. -/
theorem Sending.sends (h : Sending N input s) (hw : s.ctl = .txWait) (ht : Sending N input t) {base : Nat}
    (hbase : t.txBase.toNat = base) {flag : Byte} {a b : Nat} (hs : s.outq = [])
    (hq : t.outq = s.outq ++ wireSends s flag a b) (ha : base ≤ a) (hb : b ≤ min (base + N) (inputChunks input)) :
    Sends N input s t base (List.range' a (b - a)) where
  sending := ht
  base_eq := hbase
  carried := by rw [hq, hs]; exact carries_wireSends h.loaded flag a b _
  window := fun i hi => by
    have := List.mem_range'_1.mp hi
    omega
  closed := fun hd => nomatch hw.symm.trans hd

/-- A TICK counts, or sends the window again (R79, R80). -/
theorem Sending.tick (h : Sending N input s) (hq : s.outq = []) :
    ∃ t, tickEvent s = .next t ∧ ∃ frames, Sends N input s t s.txBase.toNat frames := by
  rcases h.phase with ⟨hw, -, -⟩ | ⟨hd, -⟩
  · rw [tickEvent_txWait hw]
    rcases Nat.lt_or_ge (s.timer.toNat + 1) s.cfgT.toNat with ht | ht
    · exact ⟨_, senderTick_counts ht, _, h.timer hq _⟩
    · have hend : windowEnd s s.txBase.toNat = min (s.txBase.toNat + N) (inputChunks input) := by
        rw [windowEnd, h.size, h.total]
      refine ⟨_, senderTick_timesOut ht (h.loaded.framesWritten _ _), _,
        h.sends hw ?_ rfl hq rfl (Nat.le_refl _) (Nat.le_of_eq hend)⟩
      exact h.keep ⟨rfl, rfl, rfl, rfl, rfl, rfl, rfl⟩
  · exact ⟨s, tickEvent_closed (by rw [hd]; rfl), _, h.timer hq s.timer⟩

/-- A valid ACK with chunks left moves the window (R84). -/
theorem Sending.fill (h : Sending N input s) (hq : s.outq = []) (hw : s.ctl = .txWait)
    (hfit : input.length ≤ Config.maxLen) {d : Nat} (hend : s.txBase.toNat + d + 1 ≤ s.txNext.toNat)
    (hnext : s.txNext.toNat = min (s.txBase.toNat + N) (inputChunks input))
    (hmore : s.txBase.toNat + d + 1 < inputChunks input) :
    ∃ t, advanceWindow s d = .next t ∧ ∃ frames, Sends N input s t (s.txBase.toNat + d + 1) frames := by
  have hchunks := inputChunks_le hfit
  have hwin : windowEnd s (s.txBase.toNat + d + 1) = min (s.txBase.toNat + d + 1 + N) (inputChunks input) := by
    rw [windowEnd, h.size, h.total]
  have hbase : (BitVec.ofNat 32 (s.txBase.toNat + d + 1)).toNat = s.txBase.toNat + d + 1 := ofNat_index (by omega)
  have hmax : (BitVec.ofNat 32 (max s.txNext.toNat (windowEnd s (s.txBase.toNat + d + 1)))).toNat =
      min (s.txBase.toNat + d + 1 + N) (inputChunks input) := by
    rw [hwin, Nat.max_eq_right (by omega)]
    exact ofNat_index (by omega)
  have hrun := advanceWindow_fills (h.total.symm ▸ hmore) (h.loaded.framesWritten s.txNext.toNat _)
  refine ⟨_, hrun, _, h.sends hw ?_ hbase hq rfl hend (Nat.le_of_eq hwin)⟩
  exact {
    loaded := ⟨h.loaded.len, h.loaded.bytes⟩
    size := h.size
    total := h.total
    phase := .inl ⟨hw, hbase.symm ▸ hmore, by rw [hbase]; exact hmax⟩ }

/-- The ACK of the last chunk completes the transfer (R83). -/
theorem Sending.complete (h : Sending N input s) (hq : s.outq = []) (hw : s.ctl = .txWait)
    (hfit : input.length ≤ Config.maxLen) {d : Nat} (hall : s.txBase.toNat + d + 1 = inputChunks input) :
    ∃ t, advanceWindow s d = .next t ∧ Sends N input s t (s.txBase.toNat + d + 1) [] := by
  have hchunks := inputChunks_le hfit
  have hbase : (BitVec.ofNat 32 (s.txBase.toNat + d + 1)).toNat = s.txBase.toNat + d + 1 := ofNat_index (by omega)
  refine ⟨_, advanceWindow_completes (by rw [h.total, hall]), ?_⟩
  rw [hq]
  exact {
    sending := {
      loaded := ⟨h.loaded.len, h.loaded.bytes⟩
      size := h.size
      total := h.total
      phase := .inr ⟨rfl, hbase.trans hall⟩ }
    base_eq := hbase
    carried := .close rfl
    window := nofun
    closed := fun hd => nomatch hw.symm.trans hd }

/-- The ACK of `a` frames moves the base to `a` (R82): it is valid unless the base is there already (R85). -/
theorem Sending.ack (h : Sending N input s) (hq : s.outq = []) (hN : N ≤ 127) (hfit : input.length ≤ Config.maxLen)
    {a : Nat} {bytes : List Byte} (hb : IsAckFrame a bytes) (hbase : s.txBase.toNat ≤ a)
    (hend : a ≤ min (s.txBase.toNat + N) (inputChunks input)) :
    ∃ t, acceptEvent (recvBytes bytes) s = .next t ∧ ∃ frames, Sends N input s t a frames := by
  have hlen := hb.length
  rw [acceptEvent_recvBytes (by omega)]
  rcases h.phase with ⟨hw, -, hnext⟩ | ⟨hd, hdone⟩
  · have hdist := hb.distance hbase (by omega)
    rw [recvEvent_txWait hw, senderRecv_frame (isFrameOperand_ofNat (by omega) (by omega)), h.size]
    rcases Nat.eq_or_lt_of_le hbase with rfl | hlt
    · rw [hdist, if_pos rfl, if_neg (by omega)]
      exact ⟨_, rfl, _, h.timer hq 0⟩
    · obtain ⟨d, rfl⟩ := Nat.exists_eq_add_of_lt hlt
      have hd : wireAckDistance s bytes = d := hdist.trans ((if_neg (by omega)).trans (by omega))
      rw [hd, if_pos (by omega)]
      rcases Nat.lt_or_ge (s.txBase.toNat + d + 1) (inputChunks input) with hmore | hall
      · exact h.fill hq hw hfit (by omega) hnext hmore
      · obtain ⟨t, ht, hs⟩ := h.complete hq hw hfit (d := d) (by omega)
        exact ⟨t, ht, [], hs⟩
  · obtain rfl : a = s.txBase.toNat := by omega
    exact ⟨s, recvEvent_closed (by rw [hd]; rfl) _ _, [], h.timer hq s.timer⟩

end

/-! ### The receiver of a transfer -/

/-- The receiver holds the first `got` chunks of this input, and waits or has seen the close. -/
structure Receiving (input : List Byte) (got : Nat) (s : State) : Prop where
  assembled : Assembled s ((List.range got).map (inputChunk input))
  phase     : s.ctl = .rxWait ∨ s.ctl = .rxDone

/-- The event takes the receiver from `s` to a state with `got` chunks, and what it sends are ACKs of these counts, or
the close. -/
structure Answers (input : List Byte) (s t : State) (got : Nat) (acks : List Nat) : Prop where
  receiving : Receiving input got t
  carried   : Carries IsAckFrame (t.ctl = .rxDone) (packets t.outq) acks
  closed    : s.ctl = .rxDone → t.ctl = .rxDone ∧ packets t.outq = []

section
variable {input : List Byte} {got : Nat} {s t : State}

theorem Receiving.rxExp (h : Receiving input got s) : s.rxExp = BitVec.ofNat 8 got := by
  apply BitVec.eq_of_toNat_eq
  rw [h.assembled.count, List.length_map, List.length_range, BitVec.toNat_ofNat]

theorem Receiving.quiet (h : Receiving input got s) (hk : KeepsReceived s t) (hc : t.ctl = s.ctl)
    (hq : packets t.outq = []) : Answers input s t got [] where
  receiving := ⟨h.assembled.keep hk, hc ▸ h.phase⟩
  carried := hq ▸ .nil
  closed := fun hd => ⟨hc.trans hd, hq⟩

theorem Receiving.tick (h : Receiving input got s) (hq : s.outq = []) :
    ∃ t, tickEvent s = .next t ∧ t.ctl = s.ctl ∧ Answers input s t got [] := by
  rcases h.phase with hw | hd
  · rw [tickEvent_rxWait hw, receiverTick_eq]
    exact ⟨_, rfl, rfl, h.quiet ⟨rfl, rfl, rfl⟩ rfl (by rw [hq]; rfl)⟩
  · exact ⟨s, tickEvent_closed (by rw [hd]; rfl), rfl, h.quiet (.refl s) rfl (by rw [hq]; rfl)⟩

/-- The close ends the wait (R100). -/
theorem Receiving.close (h : Receiving input got s) (hq : s.outq = []) :
    ∃ t, acceptEvent closeEvent s = .next t ∧ t.ctl = .rxDone ∧ Answers input s t got [] := by
  rw [closeEvent, acceptEvent_recvBytes (Nat.zero_le _)]
  rcases h.phase with hw | hd
  · refine ⟨_, (recvEvent_rxWait hw _ _).trans (receiverRecv_close [] s), rfl, ?_⟩
    exact {
      receiving := ⟨h.assembled.keep ⟨rfl, rfl, rfl⟩, .inr rfl⟩
      carried := by rw [hq]; exact .close rfl
      closed := fun hd => by simp [hw] at hd }
  · exact ⟨s, recvEvent_closed (by rw [hd]; rfl) _ _, hd, h.quiet (.refl s) rfl (by rw [hq]; rfl)⟩

/-- A frame in the wait is answered by the ACK of what the receiver has then, one chunk more if the frame carries the
expected one (R97 to R99). -/
theorem Receiving.frame (h : Receiving input got s) (hq : s.outq = []) (hfit : input.length ≤ Config.maxLen) {i : Nat}
    {bytes : List Byte} (hb : IsDataFrame input i bytes) (hi : i % 256 = got % 256 ↔ i = got) (hw : s.ctl = .rxWait) :
    ∃ t, acceptEvent (recvBytes bytes) s = .next t ∧ t.ctl = .rxWait ∧
      Answers input s t (if i = got then got + 1 else got) [if i = got then got + 1 else got] := by
  obtain ⟨h7, h71⟩ := hb.length
  have hraw := isFrameOperand_ofNat h7 h71
  have hcount : ((List.range got).map (inputChunk input)).length = got := by simp
  have hps : (List.range got).map (inputChunk input) ++
      acceptedPayloads ((List.range got).map (inputChunk input)).length [bytes] =
        (List.range (if i = got then got + 1 else got)).map (inputChunk input) := by
    simp only [hcount, hb.acceptedPayloads, hi]
    split
    · rw [List.range_succ, List.map_append, ‹i = got›]
      rfl
    · rw [List.append_nil]
  obtain ⟨t, ht, htw⟩ := h.assembled.receiverRecv_waits hw hraw (by
    rw [hps, flatten_inputChunk, List.length_take]
    omega)
  have hrec : Receiving input (if i = got then got + 1 else got) t :=
    ⟨hps ▸ h.assembled.receiverRecv hraw ht htw, .inl htw⟩
  refine ⟨t, (acceptEvent_recvBytes h71 s).trans ((recvEvent_rxWait hw _ _).trans ht), htw, hrec, ?_, ?_⟩
  · rw [receiverRecv_acks hraw ht htw, hq, hrec.rxExp]
    exact .frame ⟨_, _, rfl⟩ .nil
  · simp [hw]

end

end Sys2Proof.Machine
end

section
/-! SUPPORT. The invariant of a connection in the middle of a transfer (70_reset_and_hazards.md R140): every action keeps it,
and both boots establish it. -/

namespace Sys2Proof.Machine

/-! ### What the hosts may do in the middle of a connection -/

/-- A quiet event is a TICK, or gives at most a Result to the host. -/
theorem quietEvent_cases {e : Event} (h : quietEvent e = true) :
    e.code = 3 ∨ ∀ s, ∃ os, packets os = [] ∧ acceptEvent e s = .next (emit s os) := by
  simp only [quietEvent, Bool.or_eq_true, beq_iff_eq, or_assoc] at h
  rcases h with hc | hc | hc | hc
  · exact .inr fun s => ⟨[], rfl, by rw [acceptEvent_nop s hc, emit_nil]⟩
  · exact .inl hc
  · refine .inr fun s => ⟨_, ?_, acceptEvent_pack s hc⟩
    obtain ⟨code, bytes, hr⟩ := exists_packResult e.len (headerOperand e) (payloadOperand e)
    rw [hr]
    rfl
  · refine .inr fun s => ⟨_, ?_, acceptEvent_unpack s hc⟩
    obtain ⟨code, bytes, hr⟩ := exists_unpackResult e.len (frameOperand e)
    rw [hr]
    rfl

theorem bringsRecv_of_quiet {e : Event} (h : quietEvent e = true) : bringsRecv (.event e) = false := by
  simp only [quietEvent, Bool.or_eq_true, beq_iff_eq, or_assoc] at h
  rcases h with hc | hc | hc | hc <;> simp [bringsRecv, hc]

theorem Sending.quietEvent {N : Nat} {input : List Byte} {s : State} {e : Event} (h : Sending N input s)
    (hq : s.outq = []) (he : quietEvent e = true) :
    ∃ t, acceptEvent e s = .next t ∧ ∃ frames, Sends N input s t s.txBase.toNat frames := by
  rcases quietEvent_cases he with hc | hrun
  · rw [acceptEvent_tick s hc]
    exact h.tick hq
  · obtain ⟨os, hos, ht⟩ := hrun s
    exact ⟨_, ht, _, h.quiet ⟨rfl, rfl, rfl, rfl, rfl, rfl, rfl⟩ (by rw [emit_outq, hq]; exact hos)⟩

theorem Receiving.quietEvent {input : List Byte} {got : Nat} {s : State} {e : Event} (h : Receiving input got s)
    (hq : s.outq = []) (he : quietEvent e = true) :
    ∃ t, acceptEvent e s = .next t ∧ t.ctl = s.ctl ∧ Answers input s t got [] := by
  rcases quietEvent_cases he with hc | hrun
  · rw [acceptEvent_tick s hc]
    exact h.tick hq
  · obtain ⟨os, hos, ht⟩ := hrun s
    exact ⟨_, ht, rfl, h.quiet ⟨rfl, rfl, rfl⟩ rfl (by rw [emit_outq, hq]; exact hos)⟩

/-! ### The invariant of the connection -/

/-- A transfer under way: both blocks, what each direction carries, and how their numbers stand to each other. -/
structure Transfers (N : Nat) (input : List Byte) (c : Connection) (got : Nat) (frames acks : List Nat) : Prop where
  snd     : Sending N input c.snd
  rcv     : Receiving input got c.rcv
  toRcv   : Carries (IsDataFrame input) (c.snd.ctl = .txDone) c.toRcv frames
  toSnd   : Carries IsAckFrame (c.rcv.ctl = .rxDone) c.toSnd acks
  closing : c.rcv.ctl = .rxDone → c.snd.ctl = .txDone
  numbers : Transfer N (inputChunks input) c.snd.txBase.toNat got frames acks

/-- Some transfer of this input is under way. -/
def InTransfer (N : Nat) (input : List Byte) (c : Connection) : Prop :=
  ∃ got frames acks, Transfers N input c got frames acks

namespace Transfers

variable {N got got' base : Nat} {input : List Byte} {c : Connection} {frames acks is : List Nat}
  {e : Event} {t : State}

theorem sending (h : Transfers N input c got frames acks) : Sending N input (settle c.snd) :=
  h.snd.keep ⟨rfl, rfl, rfl, rfl, rfl, rfl, rfl⟩

theorem receiving (h : Transfers N input c got frames acks) : Receiving input got (settle c.rcv) :=
  ⟨h.rcv.assembled.settle, h.rcv.phase⟩

/-- An event at the sender, which may be the delivery of an ACK that moves the base. -/
theorem atSender (h : Transfers N input c got frames acks) (ht : acceptEvent e (settle c.snd) = .next t)
    (hs : Sends N input (settle c.snd) t base is)
    (hn : Transfer N (inputChunks input) base got frames acks) :
    ∃ c', atSenderStep (.event e) c = .next c' ∧ InTransfer N input c' := by
  have hrun : atSenderStep (.event e) c = .next { c with snd := t, toRcv := c.toRcv ++ packets t.outq } := by
    rw [atSenderStep, applyInput, ht, andThen]
  exact ⟨_, hrun, got, frames ++ is, acks, {
    snd := hs.sending
    rcv := h.rcv
    toRcv := h.toRcv.append hs.carried hs.closed
    toSnd := h.toSnd
    closing := fun hd => (hs.closed (h.closing hd)).1
    numbers := hs.base_eq.symm ▸ hn.send hs.window }⟩

/-- An event at the receiver, which may be the delivery of a frame or of the close. -/
theorem atReceiver (h : Transfers N input c got frames acks) (ht : acceptEvent e (settle c.rcv) = .next t)
    (hs : Answers input (settle c.rcv) t got' is) (hclose : t.ctl = .rxDone → c.snd.ctl = .txDone)
    (hn : Transfer N (inputChunks input) c.snd.txBase.toNat got' frames (acks ++ is)) :
    ∃ c', atReceiverStep (.event e) c = .next c' ∧ InTransfer N input c' := by
  have hrun : atReceiverStep (.event e) c = .next { c with rcv := t, toSnd := c.toSnd ++ packets t.outq } := by
    rw [atReceiverStep, applyInput, ht, andThen]
  exact ⟨_, hrun, got', frames, acks ++ is, {
    snd := h.snd
    rcv := hs.receiving
    toRcv := h.toRcv
    toSnd := h.toSnd.append hs.carried hs.closed
    closing := hclose
    numbers := hn }⟩

/-- The oldest packet to the receiver (R97 to R100). -/
theorem deliverToReceiver (h : Transfers N input c got frames acks) (hN : N ≤ 127)
    (hfit : input.length ≤ Config.maxLen) {p : Packet} {rest : List Packet} (hp : c.toRcv = p :: rest) :
    ∃ c', atReceiverStep (.event p.event) { c with toRcv := rest } = .next c' ∧ InTransfer N input c' := by
  have hcarried := hp ▸ h.toRcv
  cases hcarried with
  | close hd =>
    have hrest : Transfers N input { c with toRcv := [] } got [] acks := { h with toRcv := .nil }
    obtain ⟨t, ht, -, ha⟩ := h.receiving.close rfl
    exact hrest.atReceiver ht ha (fun _ => hd) (by rw [List.append_nil]; exact h.numbers)
  | frame hb hcarried =>
    have hrest := h.numbers.loseFrame
    have hc : Transfers N input { c with toRcv := rest } got _ acks := { h with toRcv := hcarried, numbers := hrest }
    rcases h.rcv.phase with hw | hd
    · obtain ⟨t, ht, htw, ha⟩ := h.receiving.frame rfl hfit hb (h.numbers.expected_iff hN) hw
      refine hc.atReceiver ht ha (fun hd => nomatch htw.symm.trans hd) ?_
      split
      · subst ‹_ = got›
        exact h.numbers.accept.answer
      · exact hrest.answer
    · have hclosed : connectionOpen (settle c.rcv).ctl = false := by rw [settle_ctl, hd]; rfl
      have hrun := (acceptEvent_recvBytes hb.length.2 _).trans (recvEvent_closed hclosed _ _)
      refine hc.atReceiver hrun (h.receiving.quiet (.refl _) rfl rfl) h.closing ?_
      rw [List.append_nil]
      exact hrest

/-- The oldest packet to the sender (R82): an ACK, or the close of a receiver that has seen the sender's. -/
theorem deliverToSender (h : Transfers N input c got frames acks) (hN : N ≤ 127)
    (hfit : input.length ≤ Config.maxLen) {p : Packet} {rest : List Packet} (hp : c.toSnd = p :: rest) :
    ∃ c', atSenderStep (.event p.event) { c with toSnd := rest } = .next c' ∧ InTransfer N input c' := by
  have hcarried := hp ▸ h.toSnd
  cases hcarried with
  | close hd =>
    have hrest : Transfers N input { c with toSnd := [] } got frames [] := { h with toSnd := .nil }
    have hclosed : connectionOpen (settle c.snd).ctl = false := by rw [settle_ctl, h.closing hd]; rfl
    have hrun := (acceptEvent_recvBytes (bytes := []) (Nat.zero_le _) _).trans (recvEvent_closed hclosed _ _)
    exact hrest.atSender hrun (h.sending.timer rfl c.snd.timer) h.numbers
  | frame hb hcarried =>
    have hc : Transfers N input { c with toSnd := rest } got frames _ :=
      { h with toSnd := hcarried, numbers := h.numbers.loseAck }
    obtain ⟨hbase, hgot⟩ := (List.forall_mem_cons.mp h.numbers.acks_mem).1
    obtain ⟨t, ht, is, hs⟩ := h.sending.ack rfl hN hfit hb hbase (Nat.le_trans hgot h.numbers.got_le)
    exact hc.atSender ht hs h.numbers.advance

theorem dropToReceiver (h : Transfers N input c got frames acks) :
    InTransfer N input { c with toRcv := dropHead c.toRcv } := by
  obtain ⟨is, hcarried, rfl | ⟨i, rfl⟩⟩ := h.toRcv.dropHead
  · exact ⟨got, _, acks, { h with toRcv := hcarried }⟩
  · exact ⟨got, _, acks, { h with toRcv := hcarried, numbers := h.numbers.loseFrame }⟩

theorem dropToSender (h : Transfers N input c got frames acks) :
    InTransfer N input { c with toSnd := dropHead c.toSnd } := by
  obtain ⟨is, hcarried, rfl | ⟨a, rfl⟩⟩ := h.toSnd.dropHead
  · exact ⟨got, frames, _, { h with toSnd := hcarried }⟩
  · exact ⟨got, frames, _, { h with toSnd := hcarried, numbers := h.numbers.loseAck }⟩

/-- What the statement claims of every moment of the transfer. -/
theorem delivers (h : Transfers N input c got frames acks) :
    c.snd.ctl ≠ .error ∧ c.rcv.ctl ≠ .error ∧ received c.rcv = .ok (input.take (64 * got)) ∧
      (c.rcv.ctl = .rxDone → received c.rcv = .ok input) := by
  have hbytes : received c.rcv = .ok (input.take (64 * got)) := by
    rw [h.rcv.assembled.bytes, flatten_inputChunk]
  refine ⟨?_, ?_, hbytes, fun hd => ?_⟩
  · rcases h.snd.phase with ⟨hw, -⟩ | ⟨hd, -⟩ <;> simp [*]
  · rcases h.rcv.phase with hw | hd <;> simp [*]
  · rcases h.snd.phase with ⟨hw, -⟩ | ⟨-, hbase⟩
    · exact nomatch hw.symm.trans (h.closing hd)
    · have hle := h.numbers.base_le
      rw [hbase, inputChunks] at hle
      rw [hbytes, List.take_of_length_le (by omega)]

end Transfers

section
variable {N : Nat} {input : List Byte} {c : Connection}

/-- Every quiet action completes and keeps the transfer going. -/
theorem InTransfer.act (h : InTransfer N input c) (hN : N ≤ 127) (hfit : input.length ≤ Config.maxLen) {a : Action}
    (ha : quietAction a = true) : ∃ c', act a c = .next c' ∧ InTransfer N input c' := by
  obtain ⟨got, frames, acks, h⟩ := h
  cases a with
  | atSender i =>
    cases i with
    | event e =>
      obtain ⟨t, ht, is, hs⟩ := h.sending.quietEvent rfl ha
      simp only [Machine.act, bringsRecv_of_quiet ha]
      exact h.atSender ht hs h.numbers
    | _ => cases ha
  | atReceiver i =>
    cases i with
    | event e =>
      obtain ⟨t, ht, htc, hs⟩ := h.receiving.quietEvent rfl ha
      simp only [Machine.act, bringsRecv_of_quiet ha]
      exact h.atReceiver ht hs (fun hd => h.closing (htc.symm.trans hd)) (by rw [List.append_nil]; exact h.numbers)
    | _ => cases ha
  | deliverToReceiver =>
    cases hp : c.toRcv with
    | nil => exact ⟨c, by simp only [Machine.act, hp], got, frames, acks, h⟩
    | cons p rest =>
      rw [act_deliverToReceiver hp]
      exact h.deliverToReceiver hN hfit hp
  | deliverToSender =>
    cases hp : c.toSnd with
    | nil => exact ⟨c, by simp only [Machine.act, hp], got, frames, acks, h⟩
    | cons p rest =>
      rw [act_deliverToSender hp]
      exact h.deliverToSender hN hfit hp
  | dropToReceiver => exact ⟨_, rfl, h.dropToReceiver⟩
  | dropToSender => exact ⟨_, rfl, h.dropToSender⟩

theorem InTransfer.runActions (h : InTransfer N input c) (hN : N ≤ 127) (hfit : input.length ≤ Config.maxLen)
    {actions : List Action} (ha : ∀ a ∈ actions, quietAction a = true) :
    ∃ c', runActions actions c = .next c' ∧ InTransfer N input c' := by
  induction actions generalizing c with
  | nil => exact ⟨c, rfl, h⟩
  | cons a actions ih =>
    obtain ⟨hfirst, hrest⟩ := List.forall_mem_cons.mp ha
    obtain ⟨c', hact, h'⟩ := h.act hN hfit hfirst
    rw [Machine.runActions, hact]
    exact ih h' hrest

end

/-! ### The boots open the transfer (R129, R130) -/

section
variable {s0 r0 s r : State} {input : List Byte} {n t tr sport dport sport' dport' : Byte} {sent sent' : List Output}

theorem inputChunks_eq_zero : inputChunks input = 0 ↔ input = [] := by
  rw [inputChunks, ← List.length_eq_zero_iff]
  omega

/-- The booted sender has the first window under way, or the close of an empty input. -/
theorem sending_of_boot (hn1 : 1 ≤ n.toNat) (hn : n.toNat ≤ 127) (hT : t ≠ 0) (hfit : input.length ≤ Config.maxLen)
    (hs : runInputs (senderBoot input n t sport dport) s0 = .next (s, sent)) :
    Sending n.toNat input s ∧ s.txBase.toNat = 0 ∧
      Carries (IsDataFrame input) (s.ctl = .txDone) (packets sent) (List.range (min n.toNat (inputChunks input))) := by
  obtain ⟨u, os, hu, hctl, hbase, htotal, hnext, hlen, hN, -, hbytes, rfl⟩ :=
    senderBootSendsTheFirstWindow s0 input n t sport dport _ hn1 hn hT hfit rfl
  cases hs.symm.trans hu
  have hzero : s.txBase.toNat = 0 := by rw [hbase]; rfl
  refine ⟨⟨⟨hlen, hbytes⟩, by rw [hN], htotal, ?_⟩, hzero, ?_⟩
  · rw [hzero, Nat.zero_add, hctl]
    split
    · exact .inr ⟨rfl, (inputChunks_eq_zero.mpr ‹_›).symm⟩
    · exact .inl ⟨rfl, Nat.pos_of_ne_zero (mt inputChunks_eq_zero.mp ‹_›), hnext⟩
  · have hburst := Carries.sends (P := False) (Holds := IsDataFrame input)
      (fun i => ⟨sport, dport, 0, rfl⟩) (List.range (min n.toNat (inputChunks input)))
    have hclose : Carries (IsDataFrame input) (s.ctl = .txDone) (packets (if input = [] then [.close] else [])) [] := by
      rw [hctl]
      split
      · exact .close rfl
      · exact .nil
    have hall := hburst.append hclose False.elim
    rwa [List.append_nil, packets, packets, ← List.filterMap_append] at hall

theorem inTransfer_openedConnection (hn1 : 1 ≤ n.toNat) (hn : n.toNat ≤ 127) (hT : t ≠ 0) (htr : tr ≠ 0)
    (hfit : input.length ≤ Config.maxLen) (hs : runInputs (senderBoot input n t sport dport) s0 = .next (s, sent))
    (hr : runInputs (receiverBoot tr sport' dport') r0 = .next (r, sent')) :
    InTransfer n.toNat input (openedConnection s r sent) := by
  obtain ⟨hsnd, hbase, hsent⟩ := sending_of_boot hn1 hn hT hfit hs
  cases hr.symm.trans (runInputs_receiverBoot r0 sport' dport' htr)
  have hwindow : Transfer n.toNat (inputChunks input) 0 0 (List.range (min n.toNat (inputChunks input))) [] :=
    (Transfer.start _ _).send (is := List.range _) fun i hi => ⟨Nat.zero_le i, by simpa using hi⟩
  exact ⟨0, _, [], {
    snd := hsnd
    rcv := ⟨.nil rfl rfl, .inl rfl⟩
    toRcv := hsent
    toSnd := .nil
    closing := nofun
    numbers := by rw [openedConnection, hbase]; exact hwindow }⟩

end

/-- Settles O57: the boots open a transfer, every quiet action keeps it, and in it the receiver's chunks are the input's;
a receiver that has seen the close has them all, since the sender closes only with every chunk acknowledged. -/
theorem lossyConnectionDeliversTheInput : Obligations.LossyConnectionDeliversTheInput := by
  unfold Obligations.LossyConnectionDeliversTheInput
  intro s0 r0 s r input n t tr sport dport sport' dport' sent sent' hn1 hn hT htr hfit hs hr actions ha
  obtain ⟨c, hrun, got, frames, acks, h⟩ :=
    (inTransfer_openedConnection hn1 hn hT htr hfit hs hr).runActions hn hfit ha
  obtain ⟨hsnd, hrcv, hbytes, hdone⟩ := h.delivers
  exact ⟨c, hrun, hsnd, hrcv, ⟨_, hbytes⟩, hdone⟩

end Sys2Proof.Machine
end
